-- ==== Sys2Proof/Word.lean ====
section
/-! DEFINITION. The widths of the block's registers, memory bytes, words and indices (spec R7, R30, R33, R104). -/

namespace Sys2Proof

/-- A memory byte or the contents of a general register (R7, R30). -/
abbrev Byte := BitVec 8

/-- A 16-bit word: an opcode, `PC`, `I`, a return address (R7, R33, R36, R37). -/
abbrev Word := BitVec 16

/-- The 12-bit address field `NNN` (R104). -/
abbrev Addr := BitVec 12

/-- A 4-bit field of an opcode (R101). -/
abbrev Nibble := BitVec 4

/-- The index of a general register `V0`..`VF` (R30). -/
abbrev Reg := Fin 16

/-- The number of a key, 0..=15 (R44, R308). -/
abbrev Key := Fin 16

/-- The flag register `VF` (R31). -/
abbrev vF : Reg := 15

/-- `zext_16` of a 12-bit address (R13, R104). -/
def zextAddr (nnn : Addr) : Word := nnn.setWidth 16

/-- `zext_16` of a byte (R13). -/
def zextByte (b : Byte) : Word := b.setWidth 16

end Sys2Proof
end

