-- ==== Sys2Proof/Config.lean ====
section
/-! DEFINITION. What is fixed for one machine: the parameters of R8, and the free random bytes of R159. -/

namespace Sys2Proof

/-- The quirk configuration `QUIRK` (R8, R10). -/
inductive Quirk where
  | legacy
  | modern
deriving DecidableEq, Repr

/-- `STACK_DEPTH` (R8): no limit, or at most `n` entries. -/
inductive StackDepth where
  | unbounded
  | limit (n : Nat)
deriving DecidableEq, Repr

/-- `TIMER_WRITE` (R8, R263): what an instruction's timer write loads. -/
inductive TimerWrite where
  | loadVx
  | reset60
deriving DecidableEq, Repr

/-- The named parameters of R8. A machine holds one value of this type from its construction on, and no operation
changes it (R48). -/
structure Config where
  quirk      : Quirk
  stackDepth : StackDepth
  timerWrite : TimerWrite
  timerInit  : Byte
  font       : Vector Byte 80
deriving DecidableEq, Repr

/-- The values R8 admits: a numeric `STACK_DEPTH` is at least 1. -/
def Config.wellFormed (c : Config) : Bool :=
  match c.stackDepth with
  | .unbounded => true
  | .limit n => decide (1 ≤ n)

/-- FREE VALUE (R159, log 5): the random byte of the `k`-th step whose byte no scheduled operation supplies. It has no
body, so nothing can be proved of any value of it. -/
opaque Config.randomByte : Nat → Byte

end Sys2Proof
end

