-- ==== Sys2Proof/Machine/Reset.lean ====
section
/-! DEFINITION. The values construction gives (R50, R59, R61): the standard font, what an unwritten byte of memory holds,
a timer at a value, and the configuration State.reset takes. -/

namespace Sys2Proof.Machine

/-- A timer's lifecycle state (R42). -/
inductive TimerLife where
  | aboveZero
  | zero
deriving DecidableEq, Repr

/-- A countdown timer (R42, R260). -/
structure Timer where
  value : Byte
  life  : TimerLife
deriving DecidableEq, Repr

/-- The timer with a given value and the lifecycle state R42 gives that value. -/
def Timer.atValue (v : Byte) : Timer := ⟨v, if v = 0 then .zero else .aboveZero⟩

/-- The 80 bytes of the standard font, glyph by glyph (R50). -/
def standardFontBytes : List Byte :=
  [0xF0, 0x90, 0x90, 0x90, 0xF0] ++ [0x20, 0x60, 0x20, 0x20, 0x70] ++ [0xF0, 0x10, 0xF0, 0x80, 0xF0] ++
  [0xF0, 0x10, 0xF0, 0x10, 0xF0] ++ [0x90, 0x90, 0xF0, 0x10, 0x10] ++ [0xF0, 0x80, 0xF0, 0x10, 0xF0] ++
  [0xF0, 0x80, 0xF0, 0x90, 0xF0] ++ [0xF0, 0x10, 0x20, 0x40, 0x40] ++ [0xF0, 0x90, 0xF0, 0x90, 0xF0] ++
  [0xF0, 0x90, 0xF0, 0x10, 0xF0] ++ [0xF0, 0x90, 0xF0, 0x90, 0x90] ++ [0xE0, 0x90, 0xE0, 0x90, 0xE0] ++
  [0xF0, 0x80, 0x80, 0x80, 0xF0] ++ [0xE0, 0x90, 0x90, 0x90, 0xE0] ++ [0xF0, 0x80, 0xF0, 0x80, 0xF0] ++
  [0xF0, 0x80, 0xF0, 0x80, 0x80]

/-- The standard font as the parameter `FONT` (R50). -/
def standardFont : Vector Byte 80 := ⟨standardFontBytes.toArray, by rfl⟩

/-- What an address that memory does not list reads as: the standard font at 0x000-0x04F and 0x00 elsewhere (R59). -/
def unlistedByte (a : Nat) : Byte := standardFontBytes.getD a 0

/-- The configuration of State.reset: the values R8 decides, and `QUIRK = Legacy` (DESIGN CHOICE, log 1: the spec leaves
`QUIRK` open). -/
def resetConfig : Config where
  quirk := .legacy
  stackDepth := .unbounded
  timerWrite := .loadVx
  timerInit := 0
  font := standardFont

end Sys2Proof.Machine
end

