-- ==== Sys2Proof/Syntax.lean ====
section
/-! DEFINITION. The 35 instruction variants of R112, one constructor per row of the opcode table, in the table's order. -/

namespace Sys2Proof

/-- A decoded instruction (R112). Three variants carry operand fields that depend on `QUIRK` (R106): a shift's `y` is
`some Y` in Legacy mode and `none` in Modern mode, and `jumpOffset`'s register is `none` in Legacy mode (offset register
`V0`) and `some X` in Modern mode. -/
inductive Instr where
  | call (nnn : Addr)
  | ret
  | jump (nnn : Addr)
  | jumpOffset (nnn : Addr) (register : Option Reg)
  | skipEqualByte (x : Reg) (nn : Byte)
  | skipNotEqualByte (x : Reg) (nn : Byte)
  | skipEqualVariable (x y : Reg)
  | skipNotEqualVariable (x y : Reg)
  | skipKey (x : Reg)
  | skipNotKey (x : Reg)
  | setWithByte (x : Reg) (nn : Byte)
  | setWithVariable (x y : Reg)
  | setIndexWithAddress (nnn : Addr)
  | setIndexWithSpriteAddress (x : Reg)
  | addWithByte (x : Reg) (nn : Byte)
  | addWithVariable (x y : Reg)
  | addIndexWithVariable (x : Reg)
  | subWithVariable (x y : Reg)
  | subWithVariableNot (x y : Reg)
  | shiftRight (x : Reg) (y : Option Reg)
  | shiftLeft (x : Reg) (y : Option Reg)
  | or (x y : Reg)
  | and (x y : Reg)
  | xor (x y : Reg)
  | clearScreen
  | draw (x y : Reg) (n : Nibble)
  | setVariableWithDelayTimer (x : Reg)
  | setDelayTimer (x : Reg)
  | setSoundTimer (x : Reg)
  | storeRegisters (x : Reg)
  | loadIntoRegisters (x : Reg)
  | storeDecimalConversion (x : Reg)
  | waitForKey (x : Reg)
  | randomAnd (x : Reg) (nn : Byte)
  | machineRoutine (nnn : Addr)
deriving DecidableEq, Repr

end Sys2Proof
end

