-- ==== Sys2Proof/WellFormed.lean ====
section
/-! DEFINITION. Which terms of Instr a word can stand for under a given `QUIRK` (R106, R111). -/

namespace Sys2Proof

/-- A shift carries its source register `Y` in Legacy mode only (R106). -/
def shiftFormOk (q : Quirk) (y : Option Reg) : Bool :=
  match q with
  | .legacy => y.isSome
  | .modern => y.isNone

/-- `JumpOffset` carries a register in Modern mode only, and it is `(NNN >> 8) & 0xF` (R106). -/
def jumpOffsetFormOk (q : Quirk) (nnn : Addr) (register : Option Reg) : Bool :=
  match q with
  | .legacy => register.isNone
  | .modern => register == some (nnn.extractLsb' 8 4).toFin

/-- The instructions `decode` can give under `q`: the operand forms of R106, and no `MachineRoutine` whose word is that of
`ClearScreen` or `Return` (R111). Every other field value is legal (R105). -/
def Instr.wellFormed (q : Quirk) : Instr → Bool
  | .call _ => true
  | .ret => true
  | .jump _ => true
  | .jumpOffset nnn register => jumpOffsetFormOk q nnn register
  | .skipEqualByte _ _ => true
  | .skipNotEqualByte _ _ => true
  | .skipEqualVariable _ _ => true
  | .skipNotEqualVariable _ _ => true
  | .skipKey _ => true
  | .skipNotKey _ => true
  | .setWithByte _ _ => true
  | .setWithVariable _ _ => true
  | .setIndexWithAddress _ => true
  | .setIndexWithSpriteAddress _ => true
  | .addWithByte _ _ => true
  | .addWithVariable _ _ => true
  | .addIndexWithVariable _ => true
  | .subWithVariable _ _ => true
  | .subWithVariableNot _ _ => true
  | .shiftRight _ y => shiftFormOk q y
  | .shiftLeft _ y => shiftFormOk q y
  | .or _ _ => true
  | .and _ _ => true
  | .xor _ _ => true
  | .clearScreen => true
  | .draw _ _ _ => true
  | .setVariableWithDelayTimer _ => true
  | .setDelayTimer _ => true
  | .setSoundTimer _ => true
  | .storeRegisters _ => true
  | .loadIntoRegisters _ => true
  | .storeDecimalConversion _ => true
  | .waitForKey _ => true
  | .randomAnd _ _ => true
  | .machineRoutine nnn => nnn != 0x0E0 && nnn != 0x0EE

end Sys2Proof
end

