-- ==== Sys2Proof/Decode.lean ====
section
/-! DEFINITION. The opcode's fields (R101, R104), the decoder (R110-R114) and the encoder (R117). -/

namespace Sys2Proof

/-- Why bytes are no instruction: the word matches no pattern (R114), or fewer than two bytes are given. -/
inductive DecodeError where
  | noPattern (op : Word)
  | shortWord (bytes : Nat)
deriving DecidableEq, Repr

/-- Nibble `a = op[15:12]` (R101). -/
def opA (op : Word) : Nibble := op.extractLsb' 12 4

/-- Nibble `b = op[11:8]` (R101). -/
def opB (op : Word) : Nibble := op.extractLsb' 8 4

/-- Nibble `c = op[7:4]` (R101). -/
def opC (op : Word) : Nibble := op.extractLsb' 4 4

/-- Nibble `d = op[3:0]` (R101), the field `N` (R104). -/
def opD (op : Word) : Nibble := op.extractLsb' 0 4

/-- Field `X = op[11:8]` (R104). -/
def opX (op : Word) : Reg := (opB op).toFin

/-- Field `Y = op[7:4]` (R104). -/
def opY (op : Word) : Reg := (opC op).toFin

/-- Field `NN = op[7:0]` (R104). -/
def opNN (op : Word) : Byte := op.extractLsb' 0 8

/-- Field `NNN = op[11:0]` (R104). -/
def opNNN (op : Word) : Addr := op.extractLsb' 0 12

/-- Group 0: the two fixed words take priority over `0NNN` (R111). -/
def decodeGroup0 (op : Word) : Instr :=
  if op = 0x00E0 then .clearScreen
  else if op = 0x00EE then .ret
  else .machineRoutine (opNNN op)

/-- The register a shift carries besides `X` (R106). -/
def shiftField (q : Quirk) (op : Word) : Option Reg :=
  match q with
  | .legacy => some (opY op)
  | .modern => none

/-- The register `JumpOffset` carries (R106). -/
def jumpOffsetField (q : Quirk) (op : Word) : Option Reg :=
  match q with
  | .legacy => none
  | .modern => some (opX op)

/-- Group 8, by `d` (R113). -/
def decodeGroup8 (q : Quirk) (op : Word) : Except DecodeError Instr :=
  match (opD op).toNat with
  | 0x0 => .ok (.setWithVariable (opX op) (opY op))
  | 0x1 => .ok (.or (opX op) (opY op))
  | 0x2 => .ok (.and (opX op) (opY op))
  | 0x3 => .ok (.xor (opX op) (opY op))
  | 0x4 => .ok (.addWithVariable (opX op) (opY op))
  | 0x5 => .ok (.subWithVariable (opX op) (opY op))
  | 0x6 => .ok (.shiftRight (opX op) (shiftField q op))
  | 0x7 => .ok (.subWithVariableNot (opX op) (opY op))
  | 0xE => .ok (.shiftLeft (opX op) (shiftField q op))
  | _ => .error (.noPattern op)

/-- Group E, by `{c, d}` (R113). -/
def decodeGroupE (op : Word) : Except DecodeError Instr :=
  match (opNN op).toNat with
  | 0x9E => .ok (.skipKey (opX op))
  | 0xA1 => .ok (.skipNotKey (opX op))
  | _ => .error (.noPattern op)

/-- Group F, by `{c, d}` (R113). -/
def decodeGroupF (op : Word) : Except DecodeError Instr :=
  match (opNN op).toNat with
  | 0x07 => .ok (.setVariableWithDelayTimer (opX op))
  | 0x0A => .ok (.waitForKey (opX op))
  | 0x15 => .ok (.setDelayTimer (opX op))
  | 0x18 => .ok (.setSoundTimer (opX op))
  | 0x1E => .ok (.addIndexWithVariable (opX op))
  | 0x29 => .ok (.setIndexWithSpriteAddress (opX op))
  | 0x33 => .ok (.storeDecimalConversion (opX op))
  | 0x55 => .ok (.storeRegisters (opX op))
  | 0x65 => .ok (.loadIntoRegisters (opX op))
  | _ => .error (.noPattern op)

/-- `decode(op, QUIRK)` (R110, R113): a total function of the word and the quirk. -/
def decode (q : Quirk) (op : Word) : Except DecodeError Instr :=
  match (opA op).toNat with
  | 0x0 => .ok (decodeGroup0 op)
  | 0x1 => .ok (.jump (opNNN op))
  | 0x2 => .ok (.call (opNNN op))
  | 0x3 => .ok (.skipEqualByte (opX op) (opNN op))
  | 0x4 => .ok (.skipNotEqualByte (opX op) (opNN op))
  | 0x5 => if opD op = 0 then .ok (.skipEqualVariable (opX op) (opY op)) else .error (.noPattern op)
  | 0x6 => .ok (.setWithByte (opX op) (opNN op))
  | 0x7 => .ok (.addWithByte (opX op) (opNN op))
  | 0x8 => decodeGroup8 q op
  | 0x9 => if opD op = 0 then .ok (.skipNotEqualVariable (opX op) (opY op)) else .error (.noPattern op)
  | 0xA => .ok (.setIndexWithAddress (opNNN op))
  | 0xB => .ok (.jumpOffset (opNNN op) (jumpOffsetField q op))
  | 0xC => .ok (.randomAnd (opX op) (opNN op))
  | 0xD => .ok (.draw (opX op) (opY op) (opD op))
  | 0xE => decodeGroupE op
  | 0xF => decodeGroupF op
  | _ => .error (.noPattern op)

/-- The big-endian word of two bytes, the byte at the lower address first (R74). -/
def wordOfBytes (hi lo : Byte) : Word := hi ++ lo

/-- The byte of a word that lies at the lower address (R74). -/
def highByte (op : Word) : Byte := op.extractLsb' 8 8

/-- The byte of a word that lies at the higher address (R74). -/
def lowByte (op : Word) : Byte := op.extractLsb' 0 8

/-- Decoding a byte string: the instruction of its first word and the bytes after it (R100, R74). -/
def decodeBytes (q : Quirk) : List Byte → Except DecodeError (Instr × List Byte)
  | hi :: lo :: rest =>
    match decode q (wordOfBytes hi lo) with
    | .ok i => .ok (i, rest)
    | .error e => .error e
  | bytes => .error (.shortWord bytes.length)

/-- The bits of a register index (R104). -/
def regBits (x : Reg) : Nibble := BitVec.ofFin x

/-- Format `NNN` of R102. -/
def packNNN (a : Nibble) (nnn : Addr) : Word := a ++ nnn

/-- Formats `XNN` and `XF` of R102. -/
def packXNN (a : Nibble) (x : Reg) (nn : Byte) : Word := a ++ regBits x ++ nn

/-- Formats `XY` and `XYN` of R102. -/
def packXYN (a : Nibble) (x y : Reg) (n : Nibble) : Word := a ++ regBits x ++ regBits y ++ n

/-- `encode(instruction)` (R117): the pattern of R112 with the operand fields; a field the instruction does not carry
is 0. -/
def encode : Instr → Word
  | .call nnn => packNNN 0x2 nnn
  | .ret => 0x00EE
  | .jump nnn => packNNN 0x1 nnn
  | .jumpOffset nnn _ => packNNN 0xB nnn
  | .skipEqualByte x nn => packXNN 0x3 x nn
  | .skipNotEqualByte x nn => packXNN 0x4 x nn
  | .skipEqualVariable x y => packXYN 0x5 x y 0x0
  | .skipNotEqualVariable x y => packXYN 0x9 x y 0x0
  | .skipKey x => packXNN 0xE x 0x9E
  | .skipNotKey x => packXNN 0xE x 0xA1
  | .setWithByte x nn => packXNN 0x6 x nn
  | .setWithVariable x y => packXYN 0x8 x y 0x0
  | .setIndexWithAddress nnn => packNNN 0xA nnn
  | .setIndexWithSpriteAddress x => packXNN 0xF x 0x29
  | .addWithByte x nn => packXNN 0x7 x nn
  | .addWithVariable x y => packXYN 0x8 x y 0x4
  | .addIndexWithVariable x => packXNN 0xF x 0x1E
  | .subWithVariable x y => packXYN 0x8 x y 0x5
  | .subWithVariableNot x y => packXYN 0x8 x y 0x7
  | .shiftRight x y => packXYN 0x8 x (y.getD 0) 0x6
  | .shiftLeft x y => packXYN 0x8 x (y.getD 0) 0xE
  | .or x y => packXYN 0x8 x y 0x1
  | .and x y => packXYN 0x8 x y 0x2
  | .xor x y => packXYN 0x8 x y 0x3
  | .clearScreen => 0x00E0
  | .draw x y n => packXYN 0xD x y n
  | .setVariableWithDelayTimer x => packXNN 0xF x 0x07
  | .setDelayTimer x => packXNN 0xF x 0x15
  | .setSoundTimer x => packXNN 0xF x 0x18
  | .storeRegisters x => packXNN 0xF x 0x55
  | .loadIntoRegisters x => packXNN 0xF x 0x65
  | .storeDecimalConversion x => packXNN 0xF x 0x33
  | .waitForKey x => packXNN 0xF x 0x0A
  | .randomAnd x nn => packXNN 0xC x nn
  | .machineRoutine nnn => packNNN 0x0 nnn

/-- The low `nbits` bits of `w` as an opcode, every bit above them 0. -/
def tableWord (nbits w : Nat) : Word := BitVec.ofNat 16 (w % 2 ^ nbits)

/-- The instruction the decoder reads from a row's word, numbered as the opcode table numbers it, laid out as memory holds
it, under the `QUIRK` of the reset configuration (log 1). -/
def decodeTableWord (nbits w : Nat) : Option Instr :=
  match decodeBytes Machine.resetConfig.quirk [highByte (tableWord nbits w), lowByte (tableWord nbits w)] with
  | .ok (i, _) => some i
  | .error _ => none

end Sys2Proof
end

