-- ==== Sys2Proof/Machine/State.lean ====
section
/-! DEFINITION. The state of the block (spec/10_state.md), its faults (R340), and State.reset (R64). -/

namespace Sys2Proof.Machine

/-- A key slot (R44). -/
inductive KeySlot where
  | notPressed
  | pressed
  | alreadyPressed
deriving DecidableEq, Repr

/-- Which timer `tick_timer` names (R262). -/
inductive TimerId where
  | delay
  | sound
deriving DecidableEq, Repr

/-- The faults of R340. The block records them in `State.fault` (R156); an Outcome of a step is never `fault` (log 7). -/
inductive Fault where
  /-- Raised by decoding in a step: the word matches no pattern (R341). Safe: nothing but the record changes. -/
  | decodeError (op : Word)
  /-- Raised by `Return` with an empty stack (R342). Safe: nothing but the record changes. -/
  | stackUnderflow
  /-- Raised by `Call` on a full stack when `STACK_DEPTH` is a number, with the return address not pushed (R343). Safe:
  nothing but the record changes. -/
  | stackOverflow (returnAddress : Word)
  /-- Raised by the fetch, `Draw`, `StoreRegisters`, `LoadIntoRegisters`, `StoreDecimalConversion`, with the lowest
  address of 4096 or more (R344). Safe: nothing but the record changes. -/
  | memoryOutOfRange (address : Nat)
  /-- Raised by `SkipKey` and `SkipNotKey` with a key number of 16 or more (R345). Safe: nothing but the record
  changes. -/
  | keyIndexOutOfRange (k : Byte)
  /-- Raised by construction only, with the program's length (R348). Safe: no machine results. -/
  | programTooLarge (length : Nat)
deriving DecidableEq, Repr

/-- Why an instruction has no meaning. No arm of exec refuses, so no step raises one. -/
inductive Refusal where
  /-- Raised by an arm of exec whose instruction has no meaning yet (none is left). Safe: the machine stops. -/
  | notModelled (mnemonic : String)
deriving DecidableEq, Repr

/-- An operation the driver issues on a machine (R150; `new` makes a machine and is State.new). -/
inductive DriverOp where
  | step (r : Byte)
  | tickTimer (which : TimerId)
  | setKeyState (k : Key) (pressed : Bool)
  | display
  | timers
  | fault
deriving DecidableEq, Repr

/-- The 64x32 grid of pixels: row `y`, then column `x` (R39). -/
abbrev Display := Vector (Vector Bool 64) 32

/-- Memory as the addresses that differ from `unlistedByte`, addresses strictly rising (log 9). -/
abbrev Memory := List Host.Cell

/-- Every pixel off (R60, R240). -/
def blankDisplay : Display := Vector.replicate 32 (Vector.replicate 64 false)

/-- The state of one machine. The last four fields are not the block's own: `cfg` is its configuration (R48, log 2),
`rnd` and `draws` the random input (R159, log 5), `driver` what the driver does next (R151, log 6). -/
structure State where
  /-- `V0`..`VF` (R30, R31). -/
  v        : Vector Byte 16
  /-- `I` (R36). -/
  index    : Word
  /-- `PC` (R33). -/
  pc       : Word
  /-- The call stack `S`, its top last (R37). -/
  stack    : List Word
  /-- `Mem` (R38). -/
  mem      : Memory
  /-- `Disp` (R39). -/
  disp     : Display
  /-- `DT` (R41). -/
  dt       : Timer
  /-- `ST` (R41). -/
  st       : Timer
  /-- `Key[0..=15]` (R44). -/
  keys     : Vector KeySlot 16
  /-- `WaitReg` (R45). -/
  waitReg  : Option Reg
  /-- `RelEvent` (R46). -/
  relEvent : Option Key
  /-- `Fault` (R47). -/
  fault    : Option Fault
  /-- The configuration (R8, R48). -/
  cfg      : Config
  /-- The random byte supplied with the current step (R159). -/
  rnd      : Byte
  /-- How many free random bytes have been drawn. -/
  draws    : Nat
  /-- The operations the driver has issued and the block has not yet performed, oldest first. -/
  driver   : List DriverOp
deriving DecidableEq, Repr

/-- What a meaning or a step answers. -/
abbrev Result := Host.Outcome State Fault Refusal

namespace State

/-- The machine right after construction with the empty program and `resetConfig` (R64). -/
def reset : State where
  v := Vector.replicate 16 0
  index := 0
  pc := 0x200
  stack := []
  mem := []
  disp := blankDisplay
  dt := Timer.atValue resetConfig.timerInit
  st := Timer.atValue resetConfig.timerInit
  keys := Vector.replicate 16 .notPressed
  waitReg := none
  relEvent := none
  fault := none
  cfg := resetConfig
  rnd := 0
  draws := 0
  driver := []

/-- The state with other general registers. -/
def withV (s : State) (v : Vector Byte 16) : State := { s with v := v }

/-- The state with another `I`. -/
def withIndex (s : State) (i : Word) : State := { s with index := i }

/-- The state with another `PC`. -/
def withPc (s : State) (pc : Word) : State := { s with pc := pc }

/-- The state with another call stack. -/
def withStack (s : State) (stack : List Word) : State := { s with stack := stack }

/-- The state with another memory. -/
def withMem (s : State) (m : Memory) : State := { s with mem := m }

/-- The state with another display. -/
def withDisp (s : State) (d : Display) : State := { s with disp := d }

/-- The state with another delay timer. -/
def withDt (s : State) (t : Timer) : State := { s with dt := t }

/-- The state with another sound timer. -/
def withSt (s : State) (t : Timer) : State := { s with st := t }

/-- The state with other key slots. -/
def withKeys (s : State) (keys : Vector KeySlot 16) : State := { s with keys := keys }

/-- The state with another `WaitReg`. -/
def withWaitReg (s : State) (w : Option Reg) : State := { s with waitReg := w }

/-- The state with another `RelEvent`. -/
def withRelEvent (s : State) (e : Option Key) : State := { s with relEvent := e }

/-- The state with another `Fault`. -/
def withFault (s : State) (f : Option Fault) : State := { s with fault := f }

/-- The state with another random byte at its input. -/
def withRnd (s : State) (r : Byte) : State := { s with rnd := r }

/-- The state with another driver schedule. -/
def withDriver (s : State) (ops : List DriverOp) : State := { s with driver := ops }

end State

end Sys2Proof.Machine
end

