-- ==== Sys2Proof/Machine/Ops.lean ====
section
/-! DEFINITION. The operations every meaning is written over: registers, memory, the call stack, raising a fault,
fetching, completing an instruction. -/

namespace Sys2Proof.Machine

/-! ## Registers -/

/-- Reading `V[x]` (R14). -/
def State.reg (s : State) (x : Reg) : Byte := s.v[x]

/-- Reading `Key[k]` (R14). -/
def State.key (s : State) (k : Key) : KeySlot := s.keys[k]

/-- `V[x] <- b` (R14). -/
def State.setReg (x : Reg) (b : Byte) (s : State) : State := s.withV (s.v.set x b)

/-- A result to `V[x]` and then a flag to `VF`, the flag last (R31). -/
def State.setRegAndFlag (x : Reg) (b flag : Byte) (s : State) : State := (s.setReg x b).setReg vF flag

/-- `V[k] <- bytes[k]` for every `k` that `bytes` reaches (R281). -/
def loadedRegisters (v : Vector Byte 16) (bytes : List Byte) : Vector Byte 16 :=
  Vector.ofFn fun k => bytes.getD k.val v[k]

/-- The contents of `V0`..=`VX` in order (R280). -/
def State.firstRegisters (s : State) (x : Reg) : List Byte := s.v.toList.take (x.val + 1)

/-! ## Completing an instruction and raising a fault -/

/-- The address of the following instruction: `PC` as every instruction rule reads it (R153). -/
def State.nextPc (s : State) : Word := s.pc + 2

/-- The instruction completes, and the next one is at the following address (R153, R156). -/
def completes (s : State) : Result := .next (s.withPc s.nextPc)

/-- The instruction completes, and the next one is at `target` (R34). -/
def jumpsTo (target : Word) (s : State) : Result := .next (s.withPc target)

/-- A skip: 2 more is added to `PC` when the condition holds (R174). -/
def skipIf (cond : Bool) (s : State) : Result :=
  if cond then jumpsTo (s.nextPc + 2) s else completes s

/-- `raise f` (R14, R156, R346): nothing of the operation commits, and `Fault` records `f`. `s` is the state before the
instruction, so `PC` keeps the instruction's address. -/
def raise (f : Fault) (s : State) : Result := .next (s.withFault (some f))

/-- Goes on with a checked operation's value, or raises its fault. -/
def orRaise {α : Type} (r : Except Fault α) (s : State) (go : α → Result) : Result :=
  match r with
  | .ok a => go a
  | .error f => raise f s

/-! ## Memory -/

/-- Bytes of the address space (R70). -/
def memSize : Nat := 4096

/-- The byte at an address (R81). -/
def Memory.read : Memory → Nat → Byte
  | [], a => unlistedByte a
  | (a', b) :: m, a => if a' = a then b else Memory.read m a

/-- Lists `b` at `a` in front of `m`, unless an unlisted `a` reads as `b` anyway (log 9). -/
def Memory.cons (a : Nat) (b : Byte) (m : Memory) : Memory :=
  if b = unlistedByte a then m else (a, b) :: m

/-- Writing one byte; the canonical form is kept (log 9). -/
def Memory.write : Memory → Nat → Byte → Memory
  | [], a, b => Memory.cons a b []
  | (a', b') :: m, a, b =>
    if a < a' then Memory.cons a b ((a', b') :: m)
    else if a = a' then Memory.cons a b m
    else (a', b') :: Memory.write m a b

/-- The `n` bytes from `addr` up (R72). -/
def Memory.readBytes (m : Memory) (addr : Nat) : Nat → List Byte
  | 0 => []
  | n + 1 => m.read addr :: Memory.readBytes m (addr + 1) n

/-- Writing bytes from `addr` up, the first at `addr` (R72). -/
def Memory.writeBytes (m : Memory) (addr : Nat) : List Byte → Memory
  | [] => m
  | b :: bs => Memory.writeBytes (m.write addr b) (addr + 1) bs

/-- The canonical form from address `lo` up: addresses rise strictly, lie in the address space, and no entry is what an
unlisted address reads as. -/
def Memory.wfFrom (lo : Nat) : Memory → Bool
  | [] => true
  | (a, b) :: m => decide (lo ≤ a) && decide (a < memSize) && b != unlistedByte a && Memory.wfFrom (a + 1) m

/-- The canonical form of a memory (log 9). -/
def Memory.wf (m : Memory) : Bool := Memory.wfFrom 0 m

/-- The lowest address of `addr`, ..., `addr + n - 1` that is 4096 or more, if there is one, computed on naturals
(R72). -/
def firstOutOfRange (addr : Nat) : Nat → Option Nat
  | 0 => none
  | n + 1 => if memSize ≤ addr then some addr else firstOutOfRange (addr + 1) n

/-- `MemRead(addr, n)` as its bytes in order, or the fault of its lowest out-of-range address (R14, R72). -/
def State.memRead (s : State) (addr n : Nat) : Except Fault (List Byte) :=
  match firstOutOfRange addr n with
  | some a => .error (.memoryOutOfRange a)
  | none => .ok (s.mem.readBytes addr n)

/-- `MemWrite` of bytes in order: the memory after it, or the fault of its lowest out-of-range address (R14, R72). -/
def State.memWrite (s : State) (addr : Nat) (bytes : List Byte) : Except Fault Memory :=
  match firstOutOfRange addr bytes.length with
  | some a => .error (.memoryOutOfRange a)
  | none => .ok (s.mem.writeBytes addr bytes)

/-! ## The call stack -/

/-- Is the stack full (R37, R343)? -/
def stackFull (d : StackDepth) (stack : List Word) : Bool :=
  match d with
  | .unbounded => false
  | .limit n => decide (stack.length = n)

/-- `Push(v)`: the stack after it, or `StackOverflow(v)` (R37). -/
def State.push (s : State) (v : Word) : Except Fault (List Word) :=
  if stackFull s.cfg.stackDepth s.stack then .error (.stackOverflow v) else .ok (s.stack ++ [v])

/-- `Pop()`: the value and the stack after it, or `StackUnderflow` (R37). -/
def State.pop (s : State) : Except Fault (Word × List Word) :=
  match s.stack.getLast? with
  | none => .error .stackUnderflow
  | some v => .ok (v, s.stack.dropLast)

/-! ## Fetch and the random input -/

/-- The fetch of a step: the big-endian word at `PC` (R153, R74). -/
def fetch (s : State) : Except Fault Word :=
  match s.memRead s.pc.toNat 2 with
  | .error f => .error f
  | .ok [hi, lo] => .ok (wordOfBytes hi lo)
  | .ok _ => .error (.memoryOutOfRange s.pc.toNat)

/-- `Rand()`: the random byte supplied for this step (R14, R330). -/
def State.rand (s : State) : Byte := s.rnd

/-- A step whose random byte no scheduled operation supplies gets a free one (R159, log 5). -/
def State.drawRandom (s : State) : State :=
  { s with rnd := Config.randomByte s.draws, draws := s.draws + 1 }

/-- The state with a word stored big-endian at `PC` and nothing pending before its fetch: no fault recorded, no wait, no
scheduled operation; a `PC` no word can be fetched at is set to the load address (R55). -/
def placeWord (s : State) (op : Word) : State :=
  let pc : Word := if s.pc.toNat + 1 < memSize then s.pc else 0x200
  { s with
    pc := pc
    mem := s.mem.writeBytes pc.toNat [highByte op, lowByte op]
    fault := none
    waitReg := none
    driver := [] }

end Sys2Proof.Machine
end

