-- ==== Sys2Proof/Machine/Construct.lean ====
section
/-! DEFINITION. Construction, the block's only reset (spec/70_reset_and_hazards.md R380). -/

namespace Sys2Proof.Machine

/-- Where a program is loaded (R380). -/
def loadAddress : Nat := 0x200

/-- The longest program (R9). -/
def maxProgram : Nat := 3584

/-- Memory after construction (R59). -/
def newMemory (program : List Byte) (c : Config) : Memory :=
  Memory.writeBytes (Memory.writeBytes [] 0 c.font.toList) loadAddress program

/-- `new(program, configuration)` (R380). -/
def State.new (program : List Byte) (c : Config) : Except Fault State :=
  if maxProgram < program.length then .error (.programTooLarge program.length)
  else .ok
    { State.reset with
      mem := newMemory program c
      dt := Timer.atValue c.timerInit
      st := Timer.atValue c.timerInit
      cfg := c }

end Sys2Proof.Machine
end

