-- ==== Sys2Proof/Machine/Flags.lean ====
section
/-! DEFINITION. The 8-bit results and the values written to VF as a flag (R35, R214): exact arithmetic on naturals,
narrowed at the end. -/

namespace Sys2Proof.Machine

/-- A flag's value: 1 or 0 (R35). -/
def flagByte (b : Bool) : Byte := if b then 1 else 0

/-- `(a + b) mod 256` (R204, R205). -/
def addBytes (a b : Byte) : Byte := BitVec.ofNat 8 (a.toNat + b.toNat)

/-- Carry of `a + b` (R205). -/
def carryFlag (a b : Byte) : Byte := flagByte (decide (255 < a.toNat + b.toNat))

/-- `(a - b) mod 256` (R207, R208). -/
def subBytes (a b : Byte) : Byte := BitVec.ofNat 8 (256 + a.toNat - b.toNat)

/-- NOT borrow of `a - b` (R207, R208, R214). -/
def notBorrowFlag (a b : Byte) : Byte := flagByte (decide (b.toNat ≤ a.toNat))

/-- `v >> 1` (R209). -/
def shiftRightByte (v : Byte) : Byte := BitVec.ofNat 8 (v.toNat / 2)

/-- The bit a right shift shifts out (R209). -/
def shiftRightFlag (v : Byte) : Byte := flagByte (v.getLsbD 0)

/-- `(v << 1) mod 256` (R210). -/
def shiftLeftByte (v : Byte) : Byte := BitVec.ofNat 8 (v.toNat * 2)

/-- The bit a left shift shifts out (R210). -/
def shiftLeftFlag (v : Byte) : Byte := flagByte (v.getLsbD 7)

/-- `(i + n) mod 65536` (R206, R280, R281). -/
def addIndex (i : Word) (n : Nat) : Word := BitVec.ofNat 16 (i.toNat + n)

/-- The hundreds, tens and ones digits of a byte (R282). -/
def decimalDigits (v : Byte) : List Byte :=
  [BitVec.ofNat 8 (v.toNat / 100), BitVec.ofNat 8 (v.toNat / 10 % 10), BitVec.ofNat 8 (v.toNat % 10)]

end Sys2Proof.Machine
end

