-- ==== Sys2Proof/Machine/Operands.lean ====
section
/-! DEFINITION. The operand forms: the source of a shift, the offset of a jump, a key number, the sprite's start, the
memory operand at I, the value of I after a transfer. -/

namespace Sys2Proof.Machine

/-- The value a shift shifts: `V[Y]` in the Legacy form, `V[X]` in the Modern form (R106, R209, R210). -/
def State.shiftSource (s : State) (x : Reg) (y : Option Reg) : Byte := s.reg (y.getD x)

/-- The value `JumpOffset` adds: `V0` in the Legacy form, the register it carries in the Modern form (R106, R173). -/
def State.jumpOffset (s : State) (register : Option Reg) : Byte := s.reg (register.getD 0)

/-- The key number in `V[X]`, or `KeyIndexOutOfRange` (R179, R180, R345). -/
def State.keyOperand (s : State) (x : Reg) : Except Fault Key :=
  if h : (s.reg x).toNat < 16 then .ok ⟨(s.reg x).toNat, h⟩ else .error (.keyIndexOutOfRange (s.reg x))

/-- `x0 <- V[X] mod 64` (R241). -/
def State.startColumn (s : State) (x : Reg) : Nat := (s.reg x).toNat % 64

/-- `y0 <- V[Y] mod 32` (R241). -/
def State.startRow (s : State) (y : Reg) : Nat := (s.reg y).toNat % 32

/-- The address `I + k` of byte `k` of a memory operand, with no wrap (R283). -/
def State.operandAddress (s : State) (k : Nat) : Nat := s.index.toNat + k

/-- The `n` bytes of memory at `I`, or `MemoryOutOfRange` (R72, R283). -/
def State.readOperand (s : State) (n : Nat) : Except Fault (List Byte) := s.memRead (s.operandAddress 0) n

/-- The memory after storing bytes at `I`, or `MemoryOutOfRange` (R72, R283). -/
def State.storeOperand (s : State) (bytes : List Byte) : Except Fault Memory :=
  s.memWrite (s.operandAddress 0) bytes

end Sys2Proof.Machine
end

