-- ==== Sys2Proof/Machine/Alu.lean ====
section
/-! DEFINITION. Register moves, index register and arithmetic (spec/42_register_alu.md), and RandomAnd
(spec/47_random_misc.md). -/

namespace Sys2Proof.Machine

/-- `SetWithByte` (R200). -/
def execSetWithByte (x : Reg) (nn : Byte) (s : State) : Result := completes (s.setReg x nn)

/-- `SetWithVariable` (R201). -/
def execSetWithVariable (x y : Reg) (s : State) : Result := completes (s.setReg x (s.reg y))

/-- `SetIndexWithAddress` (R202). -/
def execSetIndexWithAddress (nnn : Addr) (s : State) : Result := completes (s.withIndex (zextAddr nnn))

/-- `SetIndexWithSpriteAddress` (R203): `V[X]` is not masked to a digit. -/
def execSetIndexWithSpriteAddress (x : Reg) (s : State) : Result :=
  completes (s.withIndex (BitVec.ofNat 16 ((s.reg x).toNat * 5)))

/-- `AddWithByte` (R204): `VF` is not written as a flag. -/
def execAddWithByte (x : Reg) (nn : Byte) (s : State) : Result :=
  completes (s.setReg x (addBytes (s.reg x) nn))

/-- `AddWithVariable` (R205). -/
def execAddWithVariable (x y : Reg) (s : State) : Result :=
  completes (s.setRegAndFlag x (addBytes (s.reg x) (s.reg y)) (carryFlag (s.reg x) (s.reg y)))

/-- `AddIndexWithVariable` (R206). -/
def execAddIndexWithVariable (x : Reg) (s : State) : Result :=
  completes (s.withIndex (addIndex s.index (s.reg x).toNat))

/-- `SubWithVariable` (R207). -/
def execSubWithVariable (x y : Reg) (s : State) : Result :=
  completes (s.setRegAndFlag x (subBytes (s.reg x) (s.reg y)) (notBorrowFlag (s.reg x) (s.reg y)))

/-- `SubWithVariableNot` (R208). -/
def execSubWithVariableNot (x y : Reg) (s : State) : Result :=
  completes (s.setRegAndFlag x (subBytes (s.reg y) (s.reg x)) (notBorrowFlag (s.reg y) (s.reg x)))

/-- `ShiftRight` (R209). -/
def execShiftRight (x : Reg) (y : Option Reg) (s : State) : Result :=
  completes (s.setRegAndFlag x (shiftRightByte (s.shiftSource x y)) (shiftRightFlag (s.shiftSource x y)))

/-- `ShiftLeft` (R210). -/
def execShiftLeft (x : Reg) (y : Option Reg) (s : State) : Result :=
  completes (s.setRegAndFlag x (shiftLeftByte (s.shiftSource x y)) (shiftLeftFlag (s.shiftSource x y)))

/-- `Or` (R211). -/
def execOr (x y : Reg) (s : State) : Result := completes (s.setReg x (s.reg x ||| s.reg y))

/-- `And` (R212). -/
def execAnd (x y : Reg) (s : State) : Result := completes (s.setReg x (s.reg x &&& s.reg y))

/-- `Xor` (R213). -/
def execXor (x y : Reg) (s : State) : Result := completes (s.setReg x (s.reg x ^^^ s.reg y))

/-- `RandomAnd` (R330). -/
def execRandomAnd (x : Reg) (nn : Byte) (s : State) : Result := completes (s.setReg x (s.rand &&& nn))

/-- `MachineRoutine` (R331): nothing beyond the fetch's advance. -/
def execMachineRoutine (_nnn : Addr) (s : State) : Result := completes s

end Sys2Proof.Machine
end

