-- ==== Sys2Proof/Machine/ControlFlow.lean ====
section
/-! DEFINITION. Control transfer and skips (spec/41_control_flow.md). -/

namespace Sys2Proof.Machine

/-- `Call` (R170): pushes the address after it, and jumps. -/
def execCall (nnn : Addr) (s : State) : Result :=
  orRaise (s.push s.nextPc) s fun stack => jumpsTo (zextAddr nnn) (s.withStack stack)

/-- `Return` (R171): pops `PC`. -/
def execReturn (s : State) : Result :=
  orRaise s.pop s fun popped => jumpsTo popped.1 (s.withStack popped.2)

/-- `Jump` (R172). -/
def execJump (nnn : Addr) (s : State) : Result := jumpsTo (zextAddr nnn) s

/-- `JumpOffset` (R173): the sum is not reduced modulo 4096. -/
def execJumpOffset (nnn : Addr) (register : Option Reg) (s : State) : Result :=
  jumpsTo (addIndex (zextAddr nnn) (s.jumpOffset register).toNat) s

/-- `SkipEqualByte` (R175). -/
def execSkipEqualByte (x : Reg) (nn : Byte) (s : State) : Result := skipIf (s.reg x == nn) s

/-- `SkipNotEqualByte` (R176). -/
def execSkipNotEqualByte (x : Reg) (nn : Byte) (s : State) : Result := skipIf (s.reg x != nn) s

/-- `SkipEqualVariable` (R177). -/
def execSkipEqualVariable (x y : Reg) (s : State) : Result := skipIf (s.reg x == s.reg y) s

/-- `SkipNotEqualVariable` (R178). -/
def execSkipNotEqualVariable (x y : Reg) (s : State) : Result := skipIf (s.reg x != s.reg y) s

/-- `SkipKey` (R179): only `Pressed` counts as held. -/
def execSkipKey (x : Reg) (s : State) : Result :=
  orRaise (s.keyOperand x) s fun k => skipIf (s.key k == .pressed) s

/-- `SkipNotKey` (R180). -/
def execSkipNotKey (x : Reg) (s : State) : Result :=
  orRaise (s.keyOperand x) s fun k => skipIf (s.key k != .pressed) s

end Sys2Proof.Machine
end

