-- ==== Sys2Proof/Machine/Input.lean ====
section
/-! DEFINITION. Key input and the wait-for-key protocol (spec/46_input.md). -/

namespace Sys2Proof.Machine

/-- What a press report makes of a slot (R302): a held key is not changed. -/
def KeySlot.press : KeySlot → KeySlot
  | .notPressed => .pressed
  | .pressed => .pressed
  | .alreadyPressed => .alreadyPressed

/-- The release event a release report of key `k` leaves: only a release from `Pressed` makes one, and it replaces an
earlier one (R301). -/
def eventAfterRelease (k : Key) (slot : KeySlot) (earlier : Option Key) : Option Key :=
  match slot with
  | .notPressed => earlier
  | .pressed => some k
  | .alreadyPressed => earlier

/-- A press, `set_key_state(k, true)` (R302). -/
def pressKey (k : Key) (s : State) : State := s.withKeys (s.keys.set k (s.key k).press)

/-- A release, `set_key_state(k, false)` (R301). -/
def releaseKey (k : Key) (s : State) : State :=
  (s.withKeys (s.keys.set k .notPressed)).withRelEvent (eventAfterRelease k (s.key k) s.relEvent)

/-- `set_key_state(k, pressed)` (R300). -/
def setKeyState (k : Key) (pressed : Bool) (s : State) : State :=
  match pressed with
  | true => pressKey k s
  | false => releaseKey k s

/-- What `WaitForKey` makes of a key slot (R303). -/
def KeySlot.hold : KeySlot → KeySlot
  | .notPressed => .notPressed
  | .pressed => .alreadyPressed
  | .alreadyPressed => .alreadyPressed

/-- Every `Pressed` key becomes `AlreadyPressed` (R303). -/
def heldKeys (keys : Vector KeySlot 16) : Vector KeySlot 16 := Vector.ofFn fun k => keys[k].hold

/-- `WaitForKey` (R303): `VX` is written when the wait ends, not here. -/
def execWaitForKey (x : Reg) (s : State) : Result :=
  completes (((s.withKeys (heldKeys s.keys)).withRelEvent none).withWaitReg (some x))

/-- A key's number as a register value (R305). -/
def keyByte (k : Key) : Byte := BitVec.ofNat 8 k.val

/-- A step in the wait sub-state with waiting register `x`: blocked without an event (R304), else the wait ends and
nothing is executed (R305). -/
def waitStep (x : Reg) (s : State) : State :=
  match s.relEvent with
  | none => s
  | some k => ((s.setReg x (keyByte k)).withWaitReg none).withRelEvent none

end Sys2Proof.Machine
end

