-- ==== Sys2Proof/Machine/Screen.lean ====
section
/-! DEFINITION. The display engine (spec/43_display.md). -/

namespace Sys2Proof.Machine

/-- The pixel at column `x`, row `y` (R39); no pixel outside the screen is on. -/
def Display.pixel (d : Display) (x y : Nat) : Bool :=
  if h : y < 32 ∧ x < 64 then (d[y]'h.1)[x]'h.2 else false

/-- The loop over the bits of one sprite row, columns `x0 + j` for the `j` listed, on one row of the screen: a 1-bit
toggles its pixel and records a collision; the row stops past column 63 (R241, R242). -/
def drawBits (byte : Byte) (x0 : Nat) : List Nat → Vector Bool 64 × Bool → Vector Bool 64 × Bool
  | [], acc => acc
  | j :: js, (row, hit) =>
    if h : x0 + j < 64 then
      if byte.getLsbD (7 - j) then
        drawBits byte x0 js (row.set (x0 + j) (!row[x0 + j]), hit || row[x0 + j])
      else drawBits byte x0 js (row, hit)
    else (row, hit)

/-- The loop over the sprite's rows from screen row `y` down; it stops past row 31 (R241, R242). -/
def drawRows (x0 : Nat) : List Byte → Nat → Display × Bool → Display × Bool
  | [], _, acc => acc
  | byte :: rows, y, (d, hit) =>
    if h : y < 32 then
      drawRows x0 rows (y + 1)
        (d.set y (drawBits byte x0 (List.range 8) (d[y], hit)).1, (drawBits byte x0 (List.range 8) (d[y], hit)).2)
    else (d, hit)

/-- `ClearScreen` (R240). -/
def execClearScreen (s : State) : Result := completes (s.withDisp blankDisplay)

/-- Draws sprite rows already read, at the start position of `VX` and `VY`, and writes the collision to `VF` (R241,
R244). The start is read before `VF` is written (R245). -/
def drawSprite (x y : Reg) (rows : List Byte) (s : State) : State :=
  let drawn := drawRows (s.startColumn x) rows (s.startRow y) (s.disp, false)
  (s.withDisp drawn.1).setReg vF (flagByte drawn.2)

/-- `Draw` (R241): every row is read and checked before anything is written (R243). -/
def execDraw (x y : Reg) (n : Nibble) (s : State) : Result :=
  orRaise (s.readOperand n.toNat) s fun rows => completes (drawSprite x y rows s)

end Sys2Proof.Machine
end

