-- ==== Sys2Proof/Machine/Timers.lean ====
section
/-! DEFINITION. The countdown timers (spec/44_timers.md). -/

namespace Sys2Proof.Machine

/-- `decrement()` (R261). -/
def Timer.decrement (t : Timer) : Timer :=
  if 1 < t.value.toNat then { t with value := t.value - 1 }
  else if t.value = 1 then ⟨0, .zero⟩
  else t

/-- `reset()` (R264): 60, whatever the timer held. -/
def Timer.reset (_t : Timer) : Timer := ⟨60, .aboveZero⟩

/-- `load(T, v)` (R263). -/
def Timer.load (t : Timer) (w : TimerWrite) (v : Byte) : Timer :=
  match w with
  | .loadVx => Timer.atValue v
  | .reset60 => t.reset

/-- `tick_timer(which)` (R262). -/
def tickTimer (which : TimerId) (s : State) : State :=
  match which with
  | .delay => s.withDt s.dt.decrement
  | .sound => s.withSt s.st.decrement

/-- `SetVariableWithDelayTimer` (R265). -/
def execSetVariableWithDelayTimer (x : Reg) (s : State) : Result := completes (s.setReg x s.dt.value)

/-- `SetDelayTimer` (R266). -/
def execSetDelayTimer (x : Reg) (s : State) : Result :=
  completes (s.withDt (s.dt.load s.cfg.timerWrite (s.reg x)))

/-- `SetSoundTimer` (R267). -/
def execSetSoundTimer (x : Reg) (s : State) : Result :=
  completes (s.withSt (s.st.load s.cfg.timerWrite (s.reg x)))

end Sys2Proof.Machine
end

