-- ==== Sys2Proof/Machine/Transfer.lean ====
section
/-! DEFINITION. Register-memory transfers (spec/45_memory_transfer.md). -/

namespace Sys2Proof.Machine

/-- `I` after `StoreRegisters` or `LoadIntoRegisters`: moved past the bytes in Legacy mode, unchanged in Modern mode
(R280, R281). -/
def State.indexAfterTransfer (s : State) (x : Reg) : Word :=
  match s.cfg.quirk with
  | .legacy => addIndex s.index (x.val + 1)
  | .modern => s.index

/-- `StoreRegisters` (R280). -/
def execStoreRegisters (x : Reg) (s : State) : Result :=
  orRaise (s.storeOperand (s.firstRegisters x)) s fun m =>
    completes ((s.withMem m).withIndex (s.indexAfterTransfer x))

/-- `LoadIntoRegisters` (R281). -/
def execLoadIntoRegisters (x : Reg) (s : State) : Result :=
  orRaise (s.readOperand (x.val + 1)) s fun bytes =>
    completes ((s.withV (loadedRegisters s.v bytes)).withIndex (s.indexAfterTransfer x))

/-- `StoreDecimalConversion` (R282): `I` is not changed. -/
def execStoreDecimalConversion (x : Reg) (s : State) : Result :=
  orRaise (s.storeOperand (decimalDigits (s.reg x))) s fun m => completes (s.withMem m)

end Sys2Proof.Machine
end

