-- ==== Sys2Proof/Machine/Dispatch.lean ====
section
/-! DEFINITION. `execute(instr, r)` (R155): the meaning of each instruction, on the state in which `PC` still holds the
instruction's own address (log 10). -/

namespace Sys2Proof.Machine

/-- The effect of one instruction (R155). -/
def exec (i : Instr) (s : State) : Host.Outcome State Fault Refusal :=
  match i with
  | .call nnn => Sys2Proof.Machine.execCall nnn s
  | .ret => Sys2Proof.Machine.execReturn s
  | .jump nnn => Sys2Proof.Machine.execJump nnn s
  | .jumpOffset nnn register => Sys2Proof.Machine.execJumpOffset nnn register s
  | .skipEqualByte x nn => Sys2Proof.Machine.execSkipEqualByte x nn s
  | .skipNotEqualByte x nn => Sys2Proof.Machine.execSkipNotEqualByte x nn s
  | .skipEqualVariable x y => Sys2Proof.Machine.execSkipEqualVariable x y s
  | .skipNotEqualVariable x y => Sys2Proof.Machine.execSkipNotEqualVariable x y s
  | .skipKey x => Sys2Proof.Machine.execSkipKey x s
  | .skipNotKey x => Sys2Proof.Machine.execSkipNotKey x s
  | .setWithByte x nn => Sys2Proof.Machine.execSetWithByte x nn s
  | .setWithVariable x y => Sys2Proof.Machine.execSetWithVariable x y s
  | .setIndexWithAddress nnn => Sys2Proof.Machine.execSetIndexWithAddress nnn s
  | .setIndexWithSpriteAddress x => Sys2Proof.Machine.execSetIndexWithSpriteAddress x s
  | .addWithByte x nn => Sys2Proof.Machine.execAddWithByte x nn s
  | .addWithVariable x y => Sys2Proof.Machine.execAddWithVariable x y s
  | .addIndexWithVariable x => Sys2Proof.Machine.execAddIndexWithVariable x s
  | .subWithVariable x y => Sys2Proof.Machine.execSubWithVariable x y s
  | .subWithVariableNot x y => Sys2Proof.Machine.execSubWithVariableNot x y s
  | .shiftRight x y => Sys2Proof.Machine.execShiftRight x y s
  | .shiftLeft x y => Sys2Proof.Machine.execShiftLeft x y s
  | .or x y => Sys2Proof.Machine.execOr x y s
  | .and x y => Sys2Proof.Machine.execAnd x y s
  | .xor x y => Sys2Proof.Machine.execXor x y s
  | .clearScreen => Sys2Proof.Machine.execClearScreen s
  | .draw x y n => Sys2Proof.Machine.execDraw x y n s
  | .setVariableWithDelayTimer x => Sys2Proof.Machine.execSetVariableWithDelayTimer x s
  | .setDelayTimer x => Sys2Proof.Machine.execSetDelayTimer x s
  | .setSoundTimer x => Sys2Proof.Machine.execSetSoundTimer x s
  | .storeRegisters x => Sys2Proof.Machine.execStoreRegisters x s
  | .loadIntoRegisters x => Sys2Proof.Machine.execLoadIntoRegisters x s
  | .storeDecimalConversion x => Sys2Proof.Machine.execStoreDecimalConversion x s
  | .waitForKey x => Sys2Proof.Machine.execWaitForKey x s
  | .randomAnd x nn => Sys2Proof.Machine.execRandomAnd x nn s
  | .machineRoutine nnn => Sys2Proof.Machine.execMachineRoutine nnn s

end Sys2Proof.Machine
end

