-- ==== Sys2Proof/Machine/Cycle.lean ====
section
/-! DEFINITION. The step operation (R152): fetch, decode, execute, commit, the step results (R157), and the driver's other
operations (R150). -/

namespace Sys2Proof.Machine

/-- What a step does in a state, in the order of the checks (R152, R349). -/
inductive Activity where
  /-- `Fault` is set (R347). -/
  | faulted (f : Fault)
  /-- The wait sub-state (R304, R305). -/
  | waiting (x : Reg)
  /-- The fetch or the decoder raises (R153, R154). -/
  | raises (f : Fault)
  /-- An instruction is executed (R155). -/
  | executes (i : Instr)
deriving DecidableEq, Repr

/-- What a step returns to the driver (R157). -/
inductive StepResult where
  | executed (i : Instr)
  | blocked
  | keyReceived (k : Key)
  | faulted (f : Fault)
deriving DecidableEq, Repr

/-- The fetch and decode of a step (R153, R154). -/
def fetchDecode (s : State) : Activity :=
  match fetch s with
  | .error f => .raises f
  | .ok op =>
    match decode s.cfg.quirk op with
    | .error _ => .raises (.decodeError op)
    | .ok i => .executes i

/-- The checks of a step in their order (R152). -/
def activity (s : State) : Activity :=
  match s.fault with
  | some f => .faulted f
  | none =>
    match s.waitReg with
    | some x => .waiting x
    | none => fetchDecode s

/-- `step(r)` with `r` at the random input (R152). A recorded fault makes it change nothing (R347). -/
def stepBlock (s : State) : Result :=
  match activity s with
  | .faulted _ => .next s
  | .waiting x => .next (waitStep x s)
  | .raises f => raise f s
  | .executes i => exec i s

/-- The result of an executed instruction: `Faulted` if it raised, else `Executed` (R157). -/
def executionResult (i : Instr) (r : Result) : StepResult :=
  match r with
  | .next t =>
    match t.fault with
    | some f => .faulted f
    | none => .executed i
  | .fault f => .faulted f
  | .refused _ => .executed i

/-- The result of a wait step (R304, R305). -/
def waitResult (s : State) : StepResult :=
  match s.relEvent with
  | none => .blocked
  | some k => .keyReceived k

/-- The step result `step(r)` returns (R157). -/
def stepResult (s : State) : StepResult :=
  match activity s with
  | .faulted f => .faulted f
  | .waiting _ => waitResult s
  | .raises f => .faulted f
  | .executes i => executionResult i (exec i s)

/-- One operation of the driver on the block (R150, R161). The read-outs change nothing (R160). -/
def perform (op : DriverOp) (s : State) : Result :=
  match op with
  | .step r => stepBlock (s.withRnd r)
  | .tickTimer which => .next (tickTimer which s)
  | .setKeyState k pressed => .next (setKeyState k pressed s)
  | .display => .next s
  | .timers => .next s
  | .fault => .next s

/-- What an operation returns to the driver (R150). -/
inductive Output where
  | stepped (r : StepResult)
  | nothing
  | grid (d : Display)
  | timerValues (delay sound : Timer)
  | faultRecord (f : Option Fault)
deriving DecidableEq, Repr

/-- The output of one operation, read in the state it is issued in (R150, R160). -/
def respond (op : DriverOp) (s : State) : Output :=
  match op with
  | .step r => .stepped (stepResult (s.withRnd r))
  | .tickTimer _ => .nothing
  | .setKeyState _ _ => .nothing
  | .display => .grid s.disp
  | .timers => .timerValues s.dt s.st
  | .fault => .faultRecord s.fault

/-- The next operation of the machine: the oldest scheduled one, or, with nothing scheduled, a step with a free random
byte (R151, log 5, log 6). -/
def nextOperation (s : State) : Result :=
  match s.driver with
  | [] => stepBlock s.drawRandom
  | op :: rest => perform op (s.withDriver rest)

end Sys2Proof.Machine
end

