-- ==== Sys2Proof/Machine/Step.lean ====
section
/-! DEFINITION. One step of the machine, and the state in which the next step runs a given word. -/

namespace Sys2Proof.Machine

/-- One transition of the machine: the driver's next operation (R150, R151; nextOperation). -/
def step (s : State) : Host.Outcome State Fault Refusal := nextOperation s

/-- `s` with a table row's word where the next step fetches (placeWord). -/
def State.withFetchWord (s : State) (nbits w : Nat) : State := placeWord s (tableWord nbits w)

end Sys2Proof.Machine
end

