-- ==== Sys2Proof/Safety.lean ====
section
/-! DEFINITION. The words claims are made in: a safe state, the invariant of a machine, what an operation may change. -/

namespace Sys2Proof.Machine

/-- A safe state: no fault is recorded (R47). -/
def State.Safe (s : State) : Prop := s.fault = none

/-- A timer's lifecycle agrees with its value (R42). -/
abbrev Timer.Agrees (t : Timer) : Prop := t.life = .zero ↔ t.value = 0

/-- The stack holds at most `STACK_DEPTH` entries (R9). -/
abbrev State.StackFits (s : State) : Prop :=
  match s.cfg.stackDepth with
  | .unbounded => True
  | .limit n => s.stack.length ≤ n

/-- The invariant of a machine: memory is in its canonical form (log 9), both timers agree (R42), `PC` is at most 0x10FE
(R34), every return address is at most 0x1000 (R170), the stack fits (R9), and the configuration is one R8 admits. -/
structure State.Inv (s : State) : Prop where
  memory      : s.mem.wf = true
  delayAgrees : s.dt.Agrees
  soundAgrees : s.st.Agrees
  pcBound     : s.pc.toNat ≤ 0x10FE
  returnBound : ∀ a ∈ s.stack, a.toNat ≤ 0x1000
  stackFits   : s.StackFits
  config      : s.cfg.wellFormed = true

/-- The byte of memory at an address (R81). -/
def State.byteAt (s : State) (a : Nat) : Byte := s.mem.read a

/-- What an operation may change besides `PC`: the registers named, `I`, the stack, `count` bytes of memory from `first`
up, the display, the timers, the key slots, `WaitReg`, `RelEvent`, `Fault`. -/
structure Footprint where
  regs     : List Reg := []
  index    : Bool := false
  stack    : Bool := false
  first    : Nat := 0
  count    : Nat := 0
  disp     : Bool := false
  dt       : Bool := false
  st       : Bool := false
  keys     : Bool := false
  waitReg  : Bool := false
  relEvent : Bool := false
  fault    : Bool := false

/-- From `s` to `t` nothing but `PC` and what the footprint names has changed: every other register, every byte of memory
outside the footprint's, the configuration and the model's own fields among the rest. -/
structure ChangesOnly (p : Footprint) (s t : State) : Prop where
  regs     : ∀ r, r ∉ p.regs → t.reg r = s.reg r
  index    : p.index = false → t.index = s.index
  stack    : p.stack = false → t.stack = s.stack
  memory   : ∀ a, a < p.first ∨ p.first + p.count ≤ a → t.byteAt a = s.byteAt a
  disp     : p.disp = false → t.disp = s.disp
  dt       : p.dt = false → t.dt = s.dt
  st       : p.st = false → t.st = s.st
  keys     : p.keys = false → t.keys = s.keys
  waitReg  : p.waitReg = false → t.waitReg = s.waitReg
  relEvent : p.relEvent = false → t.relEvent = s.relEvent
  fault    : p.fault = false → t.fault = s.fault
  cfg      : t.cfg = s.cfg
  rnd      : t.rnd = s.rnd
  draws    : t.draws = s.draws
  driver   : t.driver = s.driver

/-- Every word of a row of R112 (mask and match) decodes to the row's instruction, with the fields `build` reads. -/
def RowSelects (mask pattern : Word) (build : Quirk → Word → Instr) : Prop :=
  ∀ q op, op &&& mask = pattern → decode q op = .ok (build q op)

/-- The instruction raises `f`: nothing changes but the record of the fault (R346). -/
def Raises (i : Instr) (s : State) (f : Fault) : Prop := exec i s = .next (s.withFault (some f))

/-- The instruction completes, writes `val` of the state before it to `V[x]`, and changes nothing else but `PC`. -/
def WritesReg (i : Instr) (x : Reg) (val : State → Byte) : Prop :=
  ∀ s, ∃ t, exec i s = .next t ∧ t.reg x = val s ∧ t.pc = s.pc + 2 ∧ ChangesOnly { regs := [x] } s t

/-- The instruction completes, moves `PC` by 4 when the condition holds of the state before it and by 2 when it does not,
and changes nothing else (R174). -/
def SkipsWhen (i : Instr) (cond : State → Prop) (s : State) : Prop :=
  ∃ t, exec i s = .next t ∧ (cond s → t.pc = s.pc + 4) ∧ (¬ cond s → t.pc = s.pc + 2) ∧ ChangesOnly {} s t

/-- The sprite of `n` bytes at `I`, drawn at the place `VX` and `VY` give, has a 1-bit falling on the pixel at column `cx`,
row `cy` of the screen (R241, R242): the start wraps, the sprite does not. -/
def State.SpriteOn (s : State) (x y : Reg) (n : Nibble) (cx cy : Nat) : Prop :=
  cx < 64 ∧ cy < 32 ∧
  (s.reg x).toNat % 64 ≤ cx ∧ cx - (s.reg x).toNat % 64 < 8 ∧
  (s.reg y).toNat % 32 ≤ cy ∧ cy - (s.reg y).toNat % 32 < n.toNat ∧
  (s.byteAt (s.index.toNat + (cy - (s.reg y).toNat % 32))).getLsbD (7 - (cx - (s.reg x).toNat % 64)) = true

/-- The general registers R32 lets an instruction write. -/
def writtenRegs : Instr → List Reg
  | .call _ => []
  | .ret => []
  | .jump _ => []
  | .jumpOffset _ _ => []
  | .skipEqualByte _ _ => []
  | .skipNotEqualByte _ _ => []
  | .skipEqualVariable _ _ => []
  | .skipNotEqualVariable _ _ => []
  | .skipKey _ => []
  | .skipNotKey _ => []
  | .setWithByte x _ => [x]
  | .setWithVariable x _ => [x]
  | .setIndexWithAddress _ => []
  | .setIndexWithSpriteAddress _ => []
  | .addWithByte x _ => [x]
  | .addWithVariable x _ => [x, vF]
  | .addIndexWithVariable _ => []
  | .subWithVariable x _ => [x, vF]
  | .subWithVariableNot x _ => [x, vF]
  | .shiftRight x _ => [x, vF]
  | .shiftLeft x _ => [x, vF]
  | .or x _ => [x]
  | .and x _ => [x]
  | .xor x _ => [x]
  | .clearScreen => []
  | .draw _ _ _ => [vF]
  | .setVariableWithDelayTimer x => [x]
  | .setDelayTimer _ => []
  | .setSoundTimer _ => []
  | .storeRegisters _ => []
  | .loadIntoRegisters x => (List.finRange 16).filter (· ≤ x)
  | .storeDecimalConversion _ => []
  | .waitForKey _ => []
  | .randomAnd x _ => [x]
  | .machineRoutine _ => []

/-- The state of a machine with another `QUIRK`. -/
def State.withQuirk (s : State) (q : Quirk) : State := { s with cfg := { s.cfg with quirk := q } }

/-- The outcome with its next state, if it has one, changed by `g`. -/
def mapNext (g : State → State) : Result → Result
  | .next t => .next (g t)
  | .fault f => .fault f
  | .refused r => .refused r

end Sys2Proof.Machine
end

