-- ==== Sys2Proof/Certificates/Slice0/Obligations.lean ====
section
/-! DEFINITION. The statements about the model: encoding, the step, its invariants, each instruction. "log <n>" is
notes/assumptions/<n>.md. -/

open Sys2Proof Sys2Proof.Machine

/-! ## Encoding -/

/-- Words written out from R112, with the results of 95_test_vectors.md L1-1 and L2-1 to L2-19. The patterns are the
spec's own choice (D3, "from general knowledge, not in source"). -/
def Obligations.SampleWordsDecodeToTheirVariants : Prop :=
  ∀ q,
    decode q 0x00E0 = .ok .clearScreen ∧ decode q 0x00EE = .ok .ret ∧
    decode q 0x00E1 = .ok (.machineRoutine 0x0E1) ∧ decode q 0xD12F = .ok (.draw 1 2 0xF) ∧
    decode q 0xE19E = .ok (.skipKey 1) ∧ decode q 0x5120 = .ok (.skipEqualVariable 1 2) ∧
    decode q 0x5121 = .error (.noPattern 0x5121) ∧ decode q 0x8008 = .error (.noPattern 0x8008) ∧
    decode q 0xF0FF = .error (.noPattern 0xF0FF) ∧
    decode .legacy 0x8126 = .ok (.shiftRight 1 (some 2)) ∧ decode .modern 0x8126 = .ok (.shiftRight 1 none) ∧
    decode .legacy 0xB3F0 = .ok (.jumpOffset 0x3F0 none) ∧ decode .modern 0xB3F0 = .ok (.jumpOffset 0x3F0 (some 3)) ∧
    decodeBytes q [0xF1, 0x65, 0xAB] = .ok (.loadIntoRegisters 1, [0xAB])

/-- R112 row by row, with the operand fields of R104 and R106: every word that meets a row's mask and match decodes to the
row's instruction, under both quirks; the last row is the group-0 words that are not 00E0 or 00EE. The patterns are the
spec's own choice (D3, D4, D6). -/
def Obligations.EveryRowOfTheTableDecodes : Prop :=
  RowSelects 0xF000 0x2000 (fun _ op => .call (opNNN op)) ∧
  RowSelects 0xFFFF 0x00EE (fun _ _ => .ret) ∧
  RowSelects 0xF000 0x1000 (fun _ op => .jump (opNNN op)) ∧
  RowSelects 0xF000 0xB000 (fun q op => .jumpOffset (opNNN op)
    (match q with | .legacy => none | .modern => some (opX op))) ∧
  RowSelects 0xF000 0x3000 (fun _ op => .skipEqualByte (opX op) (opNN op)) ∧
  RowSelects 0xF000 0x4000 (fun _ op => .skipNotEqualByte (opX op) (opNN op)) ∧
  RowSelects 0xF00F 0x5000 (fun _ op => .skipEqualVariable (opX op) (opY op)) ∧
  RowSelects 0xF00F 0x9000 (fun _ op => .skipNotEqualVariable (opX op) (opY op)) ∧
  RowSelects 0xF0FF 0xE09E (fun _ op => .skipKey (opX op)) ∧
  RowSelects 0xF0FF 0xE0A1 (fun _ op => .skipNotKey (opX op)) ∧
  RowSelects 0xF000 0x6000 (fun _ op => .setWithByte (opX op) (opNN op)) ∧
  RowSelects 0xF00F 0x8000 (fun _ op => .setWithVariable (opX op) (opY op)) ∧
  RowSelects 0xF000 0xA000 (fun _ op => .setIndexWithAddress (opNNN op)) ∧
  RowSelects 0xF0FF 0xF029 (fun _ op => .setIndexWithSpriteAddress (opX op)) ∧
  RowSelects 0xF000 0x7000 (fun _ op => .addWithByte (opX op) (opNN op)) ∧
  RowSelects 0xF00F 0x8004 (fun _ op => .addWithVariable (opX op) (opY op)) ∧
  RowSelects 0xF0FF 0xF01E (fun _ op => .addIndexWithVariable (opX op)) ∧
  RowSelects 0xF00F 0x8005 (fun _ op => .subWithVariable (opX op) (opY op)) ∧
  RowSelects 0xF00F 0x8007 (fun _ op => .subWithVariableNot (opX op) (opY op)) ∧
  RowSelects 0xF00F 0x8006 (fun q op => .shiftRight (opX op)
    (match q with | .legacy => some (opY op) | .modern => none)) ∧
  RowSelects 0xF00F 0x800E (fun q op => .shiftLeft (opX op)
    (match q with | .legacy => some (opY op) | .modern => none)) ∧
  RowSelects 0xF00F 0x8001 (fun _ op => .or (opX op) (opY op)) ∧
  RowSelects 0xF00F 0x8002 (fun _ op => .and (opX op) (opY op)) ∧
  RowSelects 0xF00F 0x8003 (fun _ op => .xor (opX op) (opY op)) ∧
  RowSelects 0xFFFF 0x00E0 (fun _ _ => .clearScreen) ∧
  RowSelects 0xF000 0xD000 (fun _ op => .draw (opX op) (opY op) (opD op)) ∧
  RowSelects 0xF0FF 0xF007 (fun _ op => .setVariableWithDelayTimer (opX op)) ∧
  RowSelects 0xF0FF 0xF015 (fun _ op => .setDelayTimer (opX op)) ∧
  RowSelects 0xF0FF 0xF018 (fun _ op => .setSoundTimer (opX op)) ∧
  RowSelects 0xF0FF 0xF055 (fun _ op => .storeRegisters (opX op)) ∧
  RowSelects 0xF0FF 0xF065 (fun _ op => .loadIntoRegisters (opX op)) ∧
  RowSelects 0xF0FF 0xF033 (fun _ op => .storeDecimalConversion (opX op)) ∧
  RowSelects 0xF0FF 0xF00A (fun _ op => .waitForKey (opX op)) ∧
  RowSelects 0xF000 0xC000 (fun _ op => .randomAnd (opX op) (opNN op)) ∧
  ∀ q op, op &&& 0xF000 = 0x0000 → op ≠ 0x00E0 → op ≠ 0x00EE → decode q op = .ok (.machineRoutine (opNNN op))

/-- R117: "decode(encode(i), QUIRK) = i for every instruction i decoded under the same QUIRK" (canonical form: D44, the
spec's own choice). -/
def Obligations.DecodeOfEncodeGivesTheInstruction : Prop :=
  ∀ (q : Quirk) (i : Instr), i.wellFormed q = true → decode q (encode i) = .ok i

/-- The other direction of R117: a decoded instruction is well formed, and encodes to the word it came from except for a
Modern shift whose discarded `Y` nibble was not 0 (D44, the spec's own choice). -/
def Obligations.EncodeOfDecodeGivesTheWord : Prop :=
  ∀ (q : Quirk) (op : Word) (i : Instr), decode q op = .ok i →
    i.wellFormed q = true ∧
    (encode i = op ↔ ¬ (q = .modern ∧ opA op = 8 ∧ (opD op = 6 ∨ opD op = 0xE) ∧ opC op ≠ 0))

/-- R114 (derived there from R112 and R113, whose patterns are the spec's own choice, D3, D5): the words that fail to
decode, and no others. -/
def Obligations.DecodingFailsExactlyOnUnlistedWords : Prop :=
  ∀ (q : Quirk) (op : Word),
    let unlisted : Prop :=
      ((opA op = 5 ∨ opA op = 9) ∧ opD op ≠ 0) ∨
      (opA op = 8 ∧ opD op ∈ [(0x8 : Nibble), 0x9, 0xA, 0xB, 0xC, 0xD, 0xF]) ∨
      (opA op = 0xE ∧ opNN op ∉ [(0x9E : Byte), 0xA1]) ∨
      (opA op = 0xF ∧ opNN op ∉ [(0x07 : Byte), 0x0A, 0x15, 0x18, 0x1E, 0x29, 0x33, 0x55, 0x65])
    (unlisted → decode q op = .error (.noPattern op)) ∧ (¬ unlisted → ∃ i, decode q op = .ok i)

/-! ## The step -/

/-- R152 to R155 with the model's own conventions: with nothing scheduled the step takes a free random byte (log 5,
DESIGN CHOICE), a scheduled step takes its own (log 6), and exec itself advances `PC` (log 10). When no fault is recorded,
no wait is pending and the word at `PC` decodes to `i`, the step is exec of `i`, and its result is `Executed(i)` unless
`i` raised. -/
def Obligations.StepRunsTheDecodedInstruction : Prop :=
  ∀ (s : State) (i : Instr), s.fault = none → s.waitReg = none → s.pc.toNat + 1 < 4096 →
    decode s.cfg.quirk (wordOfBytes (s.byteAt s.pc.toNat) (s.byteAt (s.pc.toNat + 1))) = .ok i →
    stepBlock s = exec i s ∧
    (∀ t, exec i s = .next t → t.fault = none → stepResult s = .executed i) ∧
    (s.driver = [] → step s = exec i s.drawRandom) ∧
    ∀ r rest, s.driver = .step r :: rest → step s = exec i ((s.withDriver rest).withRnd r)

/-- R150, R151, R152, R160 (the schedule is the model's own, log 6, and so is where the random byte stands, log 5): the
oldest scheduled operation is performed next and taken off the schedule; with none scheduled the block steps with a free
random byte; `step(r)` is the block's step with `r` at its random input, in every state, and returns its result; the
read-outs answer the display, the timers and the fault record and change nothing. -/
def Obligations.ScheduledOperationIsPerformedNext : Prop :=
  (∀ (s : State) (op : DriverOp) (rest : List DriverOp), s.driver = op :: rest →
    step s = perform op (s.withDriver rest)) ∧
  (∀ s : State, s.driver = [] → step s = stepBlock s.drawRandom) ∧
  (∀ (r : Byte) (s : State), perform (.step r) s = stepBlock (s.withRnd r) ∧
    respond (.step r) s = .stepped (stepResult (s.withRnd r))) ∧
  ∀ (op : DriverOp) (s : State), op = .display ∨ op = .timers ∨ op = .fault →
    perform op s = .next s ∧ (op = .display → respond op s = .grid s.disp) ∧
    (op = .timers → respond op s = .timerValues s.dt s.st) ∧ (op = .fault → respond op s = .faultRecord s.fault)

/-- R153: the fetched word is the two bytes at `PC` and `PC + 1`, the first in the high bits; the next address is `PC + 2`
with no wrap; from `PC >= 4095` the fetch faults with `max(PC, 4096)`. -/
def Obligations.FetchReadsTheWordAtPcOrFaults : Prop :=
  ∀ s : State,
    (s.pc.toNat < 4095 → ∃ op, fetch s = .ok op ∧
      op.toNat = 256 * (s.byteAt s.pc.toNat).toNat + (s.byteAt (s.pc.toNat + 1)).toNat ∧
      s.nextPc.toNat = s.pc.toNat + 2 ∧ s.nextPc.toNat ≤ 4096) ∧
    (4095 ≤ s.pc.toNat → s.fault = none → s.waitReg = none →
      stepBlock s = .next (s.withFault (some (.memoryOutOfRange (max s.pc.toNat 4096)))) ∧
      stepResult s = .faulted (.memoryOutOfRange (max s.pc.toNat 4096)))

/-- R154 (D7, the spec's own choice): a word that decodes to nothing raises `DecodeError` of the word, and `PC` is not
advanced. -/
def Obligations.UndecodableWordRaisesDecodeError : Prop :=
  ∀ (s : State) (e : DecodeError), s.fault = none → s.waitReg = none → s.pc.toNat + 1 < 4096 →
    decode s.cfg.quirk (wordOfBytes (s.byteAt s.pc.toNat) (s.byteAt (s.pc.toNat + 1))) = .error e →
    let f := Fault.decodeError (wordOfBytes (s.byteAt s.pc.toNat) (s.byteAt (s.pc.toNat + 1)))
    stepBlock s = .next (s.withFault (some f)) ∧ stepResult s = .faulted f

/-- R156, R346 (D7, the spec's own choice; log 7): whichever instruction, fetch or decode raises a fault, the state after
the step is the state before it with `Fault` set, and the step result is `Faulted`. -/
def Obligations.RaisedFaultCommitsNothingElse : Prop :=
  ∀ (s t : State) (f : Fault), s.fault = none → stepBlock s = .next t → t.fault = some f →
    t = s.withFault (some f) ∧ stepResult s = .faulted f

/-- R347, R161 (D7, D35, the spec's own choice): once a fault is recorded every step changes nothing and reports it, and
after any number of operations, whatever the driver has scheduled, the record, the registers, `PC`, the stack, memory,
the display and the waiting register are as they were. -/
def Obligations.RecordedFaultIsPermanent : Prop :=
  ∀ (s : State) (f : Fault), s.fault = some f →
    stepBlock s = .next s ∧ stepResult s = .faulted f ∧
    ∀ k, ∃ t : State, Sys2Proof.core.run k s = .next t ∧ t.fault = some f ∧ t.v = s.v ∧ t.index = s.index ∧
      t.pc = s.pc ∧ t.stack = s.stack ∧ t.mem = s.mem ∧ t.disp = s.disp ∧ t.waitReg = s.waitReg

/-- R158: every step is a total function, and a step in the wait sub-state with no event returns without advancing `PC`.
That a step or an instruction that raises a fault also answers a next state (R346, D7, the spec's own choice), so that the
outcomes fault and refused are never used, is the model's reading (log 7, DEDUCED). -/
def Obligations.EveryStepAnswersANextState : Prop :=
  (∀ s, ∃ t, step s = .next t) ∧ (∀ s, ∃ t, stepBlock s = .next t) ∧ (∀ i s, ∃ t, exec i s = .next t) ∧
  ∀ (s : State) (x : Reg), s.fault = none → s.waitReg = some x → s.relEvent = none →
    ∃ t, stepBlock s = .next t ∧ t.pc = s.pc

/-! ## The wait sub-state and the keys -/

/-- R304: a step with `WaitReg` set and no event changes nothing and returns `Blocked`. -/
def Obligations.BlockedStepChangesNothing : Prop :=
  ∀ (s : State) (x : Reg), s.fault = none → s.waitReg = some x → s.relEvent = none →
    stepBlock s = .next s ∧ stepResult s = .blocked

/-- R305 (D29, the spec's own choice): a step with `WaitReg = x` and `RelEvent = k` writes `k` to `V[x]`, clears both and
executes nothing. -/
def Obligations.ReleaseEventEndsTheWait : Prop :=
  ∀ (s : State) (x : Reg) (k : Key), s.fault = none → s.waitReg = some x → s.relEvent = some k →
    ∃ t, stepBlock s = .next t ∧ (t.reg x).toNat = k.val ∧ t.waitReg = none ∧ t.relEvent = none ∧ t.pc = s.pc ∧
      ChangesOnly { regs := [x], waitReg := true, relEvent := true } s t ∧ stepResult s = .keyReceived k

/-- R300, R301, R302 (D26, D27, the spec's own choice): the transition table of `set_key_state`, an operation of the block
(R150) that works in every state (R308, R161: D31, D35, the spec's own choice). -/
def Obligations.KeyReportsFollowTheTable : Prop :=
  ∀ (k : Key) (s : State),
    let p := setKeyState k true s
    let r := setKeyState k false s
    perform (.setKeyState k true) s = .next p ∧ perform (.setKeyState k false) s = .next r ∧
    p.key k = (if s.key k = .notPressed then .pressed else s.key k) ∧
    r.key k = .notPressed ∧ r.relEvent = (if s.key k = .pressed then some k else s.relEvent) ∧
    (∀ j : Key, j ≠ k → p.key j = s.key j ∧ r.key j = s.key j) ∧
    p.pc = s.pc ∧ r.pc = s.pc ∧
    ChangesOnly { keys := true } s p ∧ ChangesOnly { keys := true, relEvent := true } s r

/-- R303 (an earlier event is discarded: D28, the spec's own choice). -/
def Obligations.WaitForKeyEntersTheWait : Prop :=
  ∀ (x : Reg) (s : State), ∃ t, exec (.waitForKey x) s = .next t ∧ t.pc = s.pc + 2 ∧ t.waitReg = some x ∧
    t.relEvent = none ∧ (∀ k : Key, t.key k = if s.key k = .pressed then .alreadyPressed else s.key k) ∧
    ChangesOnly { keys := true, waitReg := true, relEvent := true } s t

/-- R307 (derived there): in a wait in which no key slot is `Pressed` (as `WaitForKey` leaves them), operations among
which the only presses are repeated reports of keys held since before the wait and not released in between never end the
wait: after all of them the block still waits, with `PC` and every register as they were. (That a fresh press makes no
event either is a clause of KeyReportsFollowTheTable.) -/
def Obligations.HeldKeyCannotEndTheWait : Prop :=
  ∀ (s : State) (x : Reg), s.fault = none → s.waitReg = some x → s.relEvent = none →
    (∀ j : Key, s.key j ≠ .pressed) →
    (∀ j : Key, .setKeyState j true ∈ s.driver → s.key j = .alreadyPressed ∧ .setKeyState j false ∉ s.driver) →
    ∃ t : State, Sys2Proof.core.run s.driver.length s = .next t ∧ t.waitReg = some x ∧ t.relEvent = none ∧
      t.fault = none ∧ t.pc = s.pc ∧ t.v = s.v ∧ t.mem = s.mem ∧ t.disp = s.disp ∧ t.driver = []

/-! ## Construction and reset -/

/-- R64 for the empty program: R55 from the source; the zero values, the font's bytes and the timers are the spec's own
choice (D19, D20, D22). -/
def Obligations.ResetStateIsAsTheSummaryTable : Prop :=
  let s := State.reset
  s.pc = 0x200 ∧ (∀ r, s.reg r = 0) ∧ s.index = 0 ∧ s.stack = [] ∧
  s.mem.readBytes 0 80 =
    [0xF0, 0x90, 0x90, 0x90, 0xF0, 0x20, 0x60, 0x20, 0x20, 0x70, 0xF0, 0x10, 0xF0, 0x80, 0xF0, 0xF0, 0x10, 0xF0, 0x10, 0xF0] ++
    [0x90, 0x90, 0xF0, 0x10, 0x10, 0xF0, 0x80, 0xF0, 0x10, 0xF0, 0xF0, 0x80, 0xF0, 0x90, 0xF0, 0xF0, 0x10, 0x20, 0x40, 0x40] ++
    [0xF0, 0x90, 0xF0, 0x90, 0xF0, 0xF0, 0x90, 0xF0, 0x10, 0xF0, 0xF0, 0x90, 0xF0, 0x90, 0x90, 0xE0, 0x90, 0xE0, 0x90, 0xE0] ++
    [0xF0, 0x80, 0x80, 0x80, 0xF0, 0xE0, 0x90, 0x90, 0x90, 0xE0, 0xF0, 0x80, 0xF0, 0x80, 0xF0, 0xF0, 0x80, 0xF0, 0x80, 0x80] ∧
  (∀ a, 80 ≤ a → s.byteAt a = 0) ∧ (∀ x y, s.disp.pixel x y = false) ∧
  s.dt = ⟨0, .zero⟩ ∧ s.st = ⟨0, .zero⟩ ∧ (∀ k : Key, s.key k = .notPressed) ∧
  s.waitReg = none ∧ s.relEvent = none ∧ s.fault = none

/-- R380 (reset values D19, length edge cases D39: the spec's own choice). -/
def Obligations.NewBuildsTheMachineOrRefusesTheProgram : Prop :=
  ∀ (p : List Byte) (c : Config),
    (p.length ≤ 3584 → ∃ s, State.new p c = .ok s ∧ s.cfg = c ∧ s.pc = 0x200 ∧ (∀ r, s.reg r = 0) ∧ s.index = 0 ∧
      s.stack = [] ∧
      (∀ a (h : a < 80), s.byteAt a = c.font[a]) ∧
      (∀ i (h : i < p.length), s.byteAt (0x200 + i) = p[i]) ∧
      (∀ a, 80 ≤ a → (a < 0x200 ∨ 0x200 + p.length ≤ a) → s.byteAt a = 0) ∧
      (∀ x y, s.disp.pixel x y = false) ∧
      s.dt.value = c.timerInit ∧ s.dt.Agrees ∧ s.st.value = c.timerInit ∧ s.st.Agrees ∧
      (∀ k : Key, s.key k = .notPressed) ∧ s.waitReg = none ∧ s.relEvent = none ∧ s.fault = none) ∧
    (3584 < p.length → State.new p c = .error (.programTooLarge p.length))

/-- State.reset meets the invariant and is safe. -/
def Obligations.ResetMeetsTheInvariant : Prop := State.reset.Inv ∧ State.reset.Safe

/-- Every machine `new` builds under a configuration R8 admits meets the invariant and is safe. -/
def Obligations.ConstructionMeetsTheInvariant : Prop :=
  ∀ (p : List Byte) (c : Config) (s : State), c.wellFormed = true → State.new p c = .ok s → s.Inv ∧ s.Safe

/-- Every operation keeps the invariant: memory in canonical form (log 9), timers that agree (R42, D23), `PC` at most
0x10FE (R34), return addresses at most 0x1000 (R170), the stack within `STACK_DEPTH` (R9). -/
def Obligations.EveryStepKeepsTheInvariant : Prop :=
  ∀ s t : State, s.Inv → step s = .next t → t.Inv

/-! ## Rules of the whole machine -/

/-- R10, R116 (D2, the spec's own choice): `QUIRK` changes the effect of `StoreRegisters` and `LoadIntoRegisters` only,
the operand fields of `ShiftRight`, `ShiftLeft` and `JumpOffset` only, and never whether a word decodes. -/
def Obligations.QuirkTouchesFiveInstructionsOnly : Prop :=
  (∀ (i : Instr) (s : State) (q : Quirk), (∀ x, i ≠ .storeRegisters x) → (∀ x, i ≠ .loadIntoRegisters x) →
    exec i (s.withQuirk q) = mapNext (fun t => t.withQuirk q) (exec i s)) ∧
  (∀ (q q' : Quirk) (op : Word) (i : Instr), decode q op = .ok i →
    (∀ x y, i ≠ .shiftRight x y) → (∀ x y, i ≠ .shiftLeft x y) → (∀ a r, i ≠ .jumpOffset a r) →
    decode q' op = .ok i) ∧
  (∀ (q q' : Quirk) (op : Word), decode q op = .error (.noPattern op) → decode q' op = .error (.noPattern op))

/-- R155: "Only RandomAnd reads r; every other instruction ignores it." -/
def Obligations.OnlyRandomAndReadsTheRandomByte : Prop :=
  ∀ (i : Instr) (s : State) (r : Byte), (∀ x nn, i ≠ .randomAnd x nn) →
    exec i (s.withRnd r) = mapNext (fun t => t.withRnd r) (exec i s)

/-- R44, R49: an instruction cannot tell an `AlreadyPressed` slot from a `NotPressed` one. From two states that differ
only so, it leaves two states that differ only so. -/
def Obligations.AlreadyPressedLooksNotPressed : Prop :=
  ∀ (i : Instr) (s : State) (keys : Vector KeySlot 16),
    (∀ k : Key, keys[k] = .pressed ↔ s.key k = .pressed) →
    ∃ t t', exec i s = .next t ∧ exec i (s.withKeys keys) = .next t' ∧ t' = t.withKeys t'.keys ∧
      ∀ k : Key, t'.key k = .pressed ↔ t.key k = .pressed

/-- R32 (derived there): no instruction writes a general register that R32 does not name for it, a wait step writes the
waiting register only, and no other operation writes one. -/
def Obligations.OnlyTheNamedRegistersAreWritten : Prop :=
  (∀ (i : Instr) (s t : State) (r : Reg), exec i s = .next t → r ∉ writtenRegs i → t.reg r = s.reg r) ∧
  (∀ (x r : Reg) (s : State), r ≠ x → (waitStep x s).reg r = s.reg r) ∧
  ∀ (op : DriverOp) (s t : State), (∀ r, op ≠ .step r) → perform op s = .next t → ∀ r, t.reg r = s.reg r

/-- R40: only `ClearScreen` and `Draw` change the display; a wait step and the driver's other operations do not. -/
def Obligations.OnlyClearScreenAndDrawChangeTheDisplay : Prop :=
  (∀ (i : Instr) (s t : State), exec i s = .next t → t.disp ≠ s.disp →
    i = .clearScreen ∨ ∃ x y n, i = .draw x y n) ∧
  (∀ (x : Reg) (s : State), (waitStep x s).disp = s.disp) ∧
  ∀ (op : DriverOp) (s t : State), (∀ r, op ≠ .step r) → perform op s = .next t → t.disp = s.disp

/-- R70, R79, R283: a byte of memory changes only by `StoreRegisters` or `StoreDecimalConversion`, at an address from `I`
up to 15 above it and inside the 4096 bytes; the driver never writes memory. -/
def Obligations.OnlyTheTwoStoresChangeMemory : Prop :=
  (∀ (i : Instr) (s t : State) (a : Nat), exec i s = .next t → t.byteAt a ≠ s.byteAt a →
    ((∃ x, i = .storeRegisters x) ∨ ∃ x, i = .storeDecimalConversion x) ∧
    s.index.toNat ≤ a ∧ a ≤ s.index.toNat + 15 ∧ a < 4096) ∧
  (∀ (x : Reg) (s : State), (waitStep x s).mem = s.mem) ∧
  ∀ (op : DriverOp) (s t : State), (∀ r, op ≠ .step r) → perform op s = .next t → t.mem = s.mem

/-- R36, R37: the writers of `I` and of the call stack. -/
def Obligations.OnlyTheNamedInstructionsWriteIndexAndStack : Prop :=
  ∀ (i : Instr) (s t : State), exec i s = .next t →
    (t.index ≠ s.index → (∃ nnn, i = .setIndexWithAddress nnn) ∨ (∃ x, i = .setIndexWithSpriteAddress x) ∨
      (∃ x, i = .addIndexWithVariable x) ∨
      (s.cfg.quirk = .legacy ∧ ((∃ x, i = .storeRegisters x) ∨ ∃ x, i = .loadIntoRegisters x))) ∧
    (t.stack ≠ s.stack → (∃ nnn, i = .call nnn) ∨ i = .ret)

/-- R41, R340 (the table's rows, with decisions D7 and D30, the spec's own choice, among the faults): the instructions
that write the timers, the key slots, `WaitReg`, `RelEvent`, and those that can raise a fault. -/
def Obligations.OnlyTheNamedInstructionsWriteDevicesAndFault : Prop :=
  ∀ (i : Instr) (s t : State), exec i s = .next t →
    (t.dt ≠ s.dt → ∃ x, i = .setDelayTimer x) ∧
    (t.st ≠ s.st → ∃ x, i = .setSoundTimer x) ∧
    (t.keys ≠ s.keys ∨ t.waitReg ≠ s.waitReg ∨ t.relEvent ≠ s.relEvent → ∃ x, i = .waitForKey x) ∧
    (t.fault ≠ s.fault → (∃ nnn, i = .call nnn) ∨ i = .ret ∨ (∃ x, i = .skipKey x) ∨ (∃ x, i = .skipNotKey x) ∨
      (∃ x y n, i = .draw x y n) ∨ (∃ x, i = .storeRegisters x) ∨ (∃ x, i = .loadIntoRegisters x) ∨
      ∃ x, i = .storeDecimalConversion x) ∧
    t.cfg = s.cfg

/-- R162 (b) (derived there): a `Jump` to its own address is a fixed point of the step. -/
def Obligations.SelfJumpIsAFixedPoint : Prop :=
  ∀ s : State, s.fault = none → s.waitReg = none → s.pc.toNat < 4095 →
    256 * (s.byteAt s.pc.toNat).toNat + (s.byteAt (s.pc.toNat + 1)).toNat = 0x1000 + s.pc.toNat →
    stepBlock s = .next s

/-! ## Control transfer -/

/-- R170 (return address D12, overflow D13: the spec's own choice). -/
def Obligations.CallPushesTheReturnAddress : Prop :=
  ∀ (nnn : Addr) (s : State),
    (s.cfg.stackDepth ≠ .limit s.stack.length → ∃ t, exec (.call nnn) s = .next t ∧
      t.stack = s.stack ++ [s.pc + 2] ∧ t.pc.toNat = nnn.toNat ∧ ChangesOnly { stack := true } s t) ∧
    (s.cfg.stackDepth = .limit s.stack.length → Raises (.call nnn) s (.stackOverflow (s.pc + 2)))

/-- R171 (the popped value is not checked: D43, the spec's own choice). -/
def Obligations.ReturnPopsTheProgramCounter : Prop :=
  ∀ s : State,
    (∀ v rest, s.stack = rest ++ [v] → ∃ t, exec .ret s = .next t ∧ t.pc = v ∧ t.stack = rest ∧
      ChangesOnly { stack := true } s t) ∧
    (s.stack = [] → Raises .ret s .stackUnderflow)

/-- R172 ("from general knowledge, not in source": the spec's own choice). -/
def Obligations.JumpReplacesTheProgramCounter : Prop :=
  ∀ (nnn : Addr) (s : State), ∃ t, exec (.jump nnn) s = .next t ∧ t.pc.toNat = nnn.toNat ∧ ChangesOnly {} s t

/-- R173 (sum not reduced: D46, the spec's own choice): Legacy adds `V0`, Modern adds `V[NNN[11:8]]`, and the
sum is at most 0x10FE. -/
def Obligations.JumpOffsetAddsTheQuirkRegister : Prop :=
  RowSelects 0xF000 0xB000 (fun q op => .jumpOffset (opNNN op)
    (match q with | .legacy => none | .modern => some (opX op))) ∧
  ∀ (nnn : Addr) (s : State),
    (∃ t, exec (.jumpOffset nnn none) s = .next t ∧ t.pc.toNat = nnn.toNat + (s.reg 0).toNat ∧
      t.pc.toNat ≤ 0x10FE ∧ ChangesOnly {} s t) ∧
    ∀ r : Reg, ∃ t, exec (.jumpOffset nnn (some r)) s = .next t ∧ t.pc.toNat = nnn.toNat + (s.reg r).toNat ∧
      t.pc.toNat ≤ 0x10FE ∧ ChangesOnly {} s t

/-- R174 to R178 (skip distance D11, semantics "from general knowledge, not in source": the spec's own choice). -/
def Obligations.ValueSkipsTestTheirCondition : Prop :=
  ∀ (x y : Reg) (nn : Byte) (s : State),
    SkipsWhen (.skipEqualByte x nn) (fun s => s.reg x = nn) s ∧
    SkipsWhen (.skipNotEqualByte x nn) (fun s => s.reg x ≠ nn) s ∧
    SkipsWhen (.skipEqualVariable x y) (fun s => s.reg x = s.reg y) s ∧
    SkipsWhen (.skipNotEqualVariable x y) (fun s => s.reg x ≠ s.reg y) s

/-- R179, R180 (the fault: D30; skip distance D11: the spec's own choice): only `Pressed` counts as held, and
a key number of 16 or more raises. -/
def Obligations.KeySkipsTestPressedOnly : Prop :=
  ∀ (x : Reg) (s : State),
    (∀ k : Key, (s.reg x).toNat = k.val →
      SkipsWhen (.skipKey x) (fun s => s.key k = .pressed) s ∧
      SkipsWhen (.skipNotKey x) (fun s => s.key k ≠ .pressed) s) ∧
    (16 ≤ (s.reg x).toNat →
      Raises (.skipKey x) s (.keyIndexOutOfRange (s.reg x)) ∧ Raises (.skipNotKey x) s (.keyIndexOutOfRange (s.reg x)))

/-! ## Registers and arithmetic -/

/-- R200, R201 ("from general knowledge, not in source": the spec's own choice). -/
def Obligations.MovesCopyTheirSource : Prop :=
  ∀ (x y : Reg) (nn : Byte),
    WritesReg (.setWithByte x nn) x (fun _ => nn) ∧ WritesReg (.setWithVariable x y) x (fun s => s.reg y)

/-- R202, R206 ("from general knowledge, not in source", D16: the spec's own choice). -/
def Obligations.IndexLoadsAndAddsModulo65536 : Prop :=
  ∀ (nnn : Addr) (x : Reg) (s : State),
    (∃ t, exec (.setIndexWithAddress nnn) s = .next t ∧ t.index.toNat = nnn.toNat ∧ t.pc = s.pc + 2 ∧
      ChangesOnly { index := true } s t) ∧
    (∃ t, exec (.addIndexWithVariable x) s = .next t ∧ t.index.toNat = (s.index.toNat + (s.reg x).toNat) % 65536 ∧
      t.pc = s.pc + 2 ∧ ChangesOnly { index := true } s t)

/-- R203: `I <- V[X] * 5`, at most 1275, with no mask of `V[X]`. -/
def Obligations.SpriteAddressIsFiveTimesTheDigit : Prop :=
  RowSelects 0xF0FF 0xF029 (fun _ op => .setIndexWithSpriteAddress (opX op)) ∧
  ∀ (x : Reg) (s : State), ∃ t, exec (.setIndexWithSpriteAddress x) s = .next t ∧
    t.index.toNat = (s.reg x).toNat * 5 ∧ t.index.toNat ≤ 1275 ∧ t.pc = s.pc + 2 ∧ ChangesOnly { index := true } s t

/-- R204 (no carry flag: D14; "from general knowledge, not in source": the spec's own choice). -/
def Obligations.AddWithByteWrapsAndKeepsTheFlag : Prop :=
  ∀ (x : Reg) (nn : Byte) (s : State), ∃ t, exec (.addWithByte x nn) s = .next t ∧
    (t.reg x).toNat = ((s.reg x).toNat + nn.toNat) % 256 ∧ t.pc = s.pc + 2 ∧ ChangesOnly { regs := [x] } s t

/-- R205: the sum modulo 256, then the carry in `VF`, which is the later write. -/
def Obligations.AddWithVariableSetsSumAndCarry : Prop :=
  RowSelects 0xF00F 0x8004 (fun _ op => .addWithVariable (opX op) (opY op)) ∧
  ∀ (x y : Reg) (s : State), ∃ t, exec (.addWithVariable x y) s = .next t ∧
    (x ≠ vF → (t.reg x).toNat = ((s.reg x).toNat + (s.reg y).toNat) % 256) ∧
    t.reg vF = (if (s.reg x).toNat + (s.reg y).toNat > 255 then 1 else 0) ∧
    t.pc = s.pc + 2 ∧ ChangesOnly { regs := [x, vF] } s t

/-- R207: the difference modulo 256, then NOT borrow in `VF`. -/
def Obligations.SubWithVariableSetsDifferenceAndNotBorrow : Prop :=
  RowSelects 0xF00F 0x8005 (fun _ op => .subWithVariable (opX op) (opY op)) ∧
  ∀ (x y : Reg) (s : State), ∃ t, exec (.subWithVariable x y) s = .next t ∧
    (x ≠ vF → ((t.reg x).toNat : Int) = ((s.reg x).toNat - (s.reg y).toNat : Int) % 256) ∧
    t.reg vF = (if (s.reg x).toNat ≥ (s.reg y).toNat then 1 else 0) ∧
    t.pc = s.pc + 2 ∧ ChangesOnly { regs := [x, vF] } s t

/-- R208: `VY - VX` modulo 256, then NOT borrow in `VF`. -/
def Obligations.SubWithVariableNotExchangesTheOperands : Prop :=
  RowSelects 0xF00F 0x8007 (fun _ op => .subWithVariableNot (opX op) (opY op)) ∧
  ∀ (x y : Reg) (s : State), ∃ t, exec (.subWithVariableNot x y) s = .next t ∧
    (x ≠ vF → ((t.reg x).toNat : Int) = ((s.reg y).toNat - (s.reg x).toNat : Int) % 256) ∧
    t.reg vF = (if (s.reg y).toNat ≥ (s.reg x).toNat then 1 else 0) ∧
    t.pc = s.pc + 2 ∧ ChangesOnly { regs := [x, vF] } s t

/-- R209: the source is `VY` in Legacy mode and `VX` in Modern mode; the result is half of it and `VF` is its bit 0. -/
def Obligations.ShiftRightShiftsTheQuirkSource : Prop :=
  RowSelects 0xF00F 0x8006 (fun q op => .shiftRight (opX op)
    (match q with | .legacy => some (opY op) | .modern => none)) ∧
  ∀ (x : Reg) (s : State),
    (∀ y : Reg, ∃ t, exec (.shiftRight x (some y)) s = .next t ∧
      (x ≠ vF → (t.reg x).toNat = (s.reg y).toNat / 2) ∧ (t.reg vF).toNat = (s.reg y).toNat % 2 ∧
      t.pc = s.pc + 2 ∧ ChangesOnly { regs := [x, vF] } s t) ∧
    (∃ t, exec (.shiftRight x none) s = .next t ∧
      (x ≠ vF → (t.reg x).toNat = (s.reg x).toNat / 2) ∧ (t.reg vF).toNat = (s.reg x).toNat % 2 ∧
      t.pc = s.pc + 2 ∧ ChangesOnly { regs := [x, vF] } s t)

/-- R210: the source as for a right shift; the result is twice it modulo 256 and `VF` is its bit 7. -/
def Obligations.ShiftLeftShiftsTheQuirkSource : Prop :=
  RowSelects 0xF00F 0x800E (fun q op => .shiftLeft (opX op)
    (match q with | .legacy => some (opY op) | .modern => none)) ∧
  ∀ (x : Reg) (s : State),
    (∀ y : Reg, ∃ t, exec (.shiftLeft x (some y)) s = .next t ∧
      (x ≠ vF → (t.reg x).toNat = (s.reg y).toNat * 2 % 256) ∧ (t.reg vF).toNat = (s.reg y).toNat / 128 ∧
      t.pc = s.pc + 2 ∧ ChangesOnly { regs := [x, vF] } s t) ∧
    (∃ t, exec (.shiftLeft x none) s = .next t ∧
      (x ≠ vF → (t.reg x).toNat = (s.reg x).toNat * 2 % 256) ∧ (t.reg vF).toNat = (s.reg x).toNat / 128 ∧
      t.pc = s.pc + 2 ∧ ChangesOnly { regs := [x, vF] } s t)

/-- R211, R212, R213 ("from general knowledge, not in source"; `VF` not reset: D15, the spec's own choice), bit by bit. -/
def Obligations.LogicWorksBitByBitAndKeepsTheFlag : Prop :=
  ∀ (x y : Reg) (s : State),
    (∃ t, exec (.or x y) s = .next t ∧
      (∀ j, (t.reg x).getLsbD j = ((s.reg x).getLsbD j || (s.reg y).getLsbD j)) ∧
      t.pc = s.pc + 2 ∧ ChangesOnly { regs := [x] } s t) ∧
    (∃ t, exec (.and x y) s = .next t ∧
      (∀ j, (t.reg x).getLsbD j = ((s.reg x).getLsbD j && (s.reg y).getLsbD j)) ∧
      t.pc = s.pc + 2 ∧ ChangesOnly { regs := [x] } s t) ∧
    (∃ t, exec (.xor x y) s = .next t ∧
      (∀ j, (t.reg x).getLsbD j = ((s.reg x).getLsbD j ^^ (s.reg y).getLsbD j)) ∧
      t.pc = s.pc + 2 ∧ ChangesOnly { regs := [x] } s t)

/-! ## Display -/

/-- R240. -/
def Obligations.ClearScreenTurnsEveryPixelOff : Prop :=
  RowSelects 0xFFFF 0x00E0 (fun _ _ => .clearScreen) ∧
  ∀ s : State, ∃ t, exec .clearScreen s = .next t ∧ (∀ x y, t.disp.pixel x y = false) ∧ t.pc = s.pc + 2 ∧
    ChangesOnly { disp := true } s t

/-- R241, R244: the drawing loops toggle exactly the pixels a 1-bit of the sprite falls on, `VF` tells whether one of them
was on, and a sprite that reaches past memory raises with nothing drawn. That clipped rows are range-checked too (R243, D9),
that `N = 0` draws nothing and leaves `VF = 0` (R245, D41), and that column 63 and row 31 are drawn (R242, D49) are the
spec's own choices, which the model follows (log 12). -/
def Obligations.DrawTogglesExactlyTheSpritesPixels : Prop :=
  RowSelects 0xF000 0xD000 (fun _ op => .draw (opX op) (opY op) (opD op)) ∧
  ∀ (x y : Reg) (n : Nibble) (s : State),
    ((n = 0 ∨ s.index.toNat + n.toNat ≤ 4096) → ∃ t, exec (.draw x y n) s = .next t ∧
      (∀ cx cy, s.SpriteOn x y n cx cy → t.disp.pixel cx cy = !s.disp.pixel cx cy) ∧
      (∀ cx cy, ¬ s.SpriteOn x y n cx cy → t.disp.pixel cx cy = s.disp.pixel cx cy) ∧
      ((∃ cx cy, s.SpriteOn x y n cx cy ∧ s.disp.pixel cx cy = true) → t.reg vF = 1) ∧
      ((∀ cx cy, s.SpriteOn x y n cx cy → s.disp.pixel cx cy = false) → t.reg vF = 0) ∧
      t.pc = s.pc + 2 ∧ ChangesOnly { regs := [vF], disp := true } s t) ∧
    (n ≠ 0 ∧ 4096 < s.index.toNat + n.toNat →
      Raises (.draw x y n) s (.memoryOutOfRange (max s.index.toNat 4096)))

/-- R246 as R241 and R244 bear it out (log 13): the same sprite drawn twice at the same place restores the display, and
the second draw sets `VF` to 1 when a 1-bit of the sprite falls on a pixel that was off before the first draw. Where the
sprite falls on pixels that were all on, the second draw finds them off and leaves 0, which R246's last clause omits. -/
def Obligations.DrawingTwiceRestoresTheDisplay : Prop :=
  ∀ (x y : Reg) (n : Nibble) (s t u : State), exec (.draw x y n) s = .next t → exec (.draw x y n) t = .next u →
    (t.reg x).toNat % 64 = (s.reg x).toNat % 64 → (t.reg y).toNat % 32 = (s.reg y).toNat % 32 →
    u.disp = s.disp ∧
    ((n = 0 ∨ s.index.toNat + n.toNat ≤ 4096) →
      ((∃ cx cy, s.SpriteOn x y n cx cy ∧ s.disp.pixel cx cy = false) → u.reg vF = 1) ∧
      ((∀ cx cy, s.SpriteOn x y n cx cy → s.disp.pixel cx cy = true) → u.reg vF = 0))

/-! ## Timers -/

/-- R265 (D25, "from general knowledge, not in source": the spec's own choice). -/
def Obligations.DelayTimerIsReadIntoARegister : Prop :=
  ∀ x : Reg, WritesReg (.setVariableWithDelayTimer x) x (fun s => s.dt.value)

/-- R263, R266, R267 (D24, "from general knowledge, not in source": the spec's own choice), for both values of
`TIMER_WRITE`. -/
def Obligations.TimerWritesLoadByTimerWrite : Prop :=
  ∀ (x : Reg) (s : State),
    (∃ t, exec (.setDelayTimer x) s = .next t ∧ (s.cfg.timerWrite = .loadVx → t.dt.value = s.reg x) ∧
      (s.cfg.timerWrite = .reset60 → t.dt.value = 60) ∧ t.dt.Agrees ∧ t.pc = s.pc + 2 ∧
      ChangesOnly { dt := true } s t) ∧
    (∃ t, exec (.setSoundTimer x) s = .next t ∧ (s.cfg.timerWrite = .loadVx → t.st.value = s.reg x) ∧
      (s.cfg.timerWrite = .reset60 → t.st.value = 60) ∧ t.st.Agrees ∧ t.pc = s.pc + 2 ∧
      ChangesOnly { st := true } s t)

/-- R261, R262: `decrement()` in its three cases, and `tick_timer`, which decrements the named timer and changes nothing
else. -/
def Obligations.TickDecrementsTheNamedTimerOnly : Prop :=
  (∀ T : Timer,
    (1 < T.value.toNat → T.decrement.value.toNat = T.value.toNat - 1 ∧ T.decrement.life = T.life) ∧
    (T.value = 1 → T.decrement = ⟨0, .zero⟩) ∧ (T.value = 0 → T.decrement = T)) ∧
  ∀ s : State,
    perform (.tickTimer .delay) s = .next (tickTimer .delay s) ∧
    (tickTimer .delay s).dt = s.dt.decrement ∧ (tickTimer .delay s).pc = s.pc ∧
    ChangesOnly { dt := true } s (tickTimer .delay s) ∧
    perform (.tickTimer .sound) s = .next (tickTimer .sound s) ∧
    (tickTimer .sound s).st = s.st.decrement ∧ (tickTimer .sound s).pc = s.pc ∧
    ChangesOnly { st := true } s (tickTimer .sound s)

/-- R264, R268 (D23, the spec's own choice; R268 is derived there): a countdown of `n` ticks takes `n` off the value and
stops at 0, the lifecycle agreeing throughout; a timer after `reset()` is at 60 and reaches 0 after 60 decrements and
stays there at the 61st. -/
def Obligations.CountdownReachesZeroAndStays : Prop :=
  (∀ (T : Timer) (n : Nat), T.Agrees →
    (Timer.decrement^[n] T).value.toNat = T.value.toNat - n ∧ (Timer.decrement^[n] T).Agrees) ∧
  ∀ T : Timer, T.reset = ⟨60, .aboveZero⟩ ∧ Timer.decrement^[59] T.reset = ⟨1, .aboveZero⟩ ∧
    Timer.decrement^[60] T.reset = ⟨0, .zero⟩ ∧ Timer.decrement^[61] T.reset = ⟨0, .zero⟩

/-! ## Register-memory transfers -/

/-- R280, in every state whose memory is in its canonical form. -/
def Obligations.StoreRegistersWritesUpToVx : Prop :=
  RowSelects 0xF0FF 0xF055 (fun _ op => .storeRegisters (opX op)) ∧
  ∀ (x : Reg) (s : State), s.mem.wf = true →
    (s.index.toNat + x.val < 4096 → ∃ t, exec (.storeRegisters x) s = .next t ∧
      (∀ k : Reg, k ≤ x → t.byteAt (s.index.toNat + k.val) = s.reg k) ∧
      (s.cfg.quirk = .legacy → t.index.toNat = (s.index.toNat + x.val + 1) % 65536) ∧
      (s.cfg.quirk = .modern → t.index = s.index) ∧ t.pc = s.pc + 2 ∧
      ChangesOnly { index := true, first := s.index.toNat, count := x.val + 1 } s t) ∧
    (4096 ≤ s.index.toNat + x.val → Raises (.storeRegisters x) s (.memoryOutOfRange (max s.index.toNat 4096)))

/-- R281. -/
def Obligations.LoadIntoRegistersReadsUpToVx : Prop :=
  RowSelects 0xF0FF 0xF065 (fun _ op => .loadIntoRegisters (opX op)) ∧
  ∀ (x : Reg) (s : State),
    (s.index.toNat + x.val < 4096 → ∃ t, exec (.loadIntoRegisters x) s = .next t ∧
      (∀ k : Reg, k ≤ x → t.reg k = s.byteAt (s.index.toNat + k.val)) ∧
      (s.cfg.quirk = .legacy → t.index.toNat = (s.index.toNat + x.val + 1) % 65536) ∧
      (s.cfg.quirk = .modern → t.index = s.index) ∧ t.pc = s.pc + 2 ∧
      ChangesOnly { regs := (List.finRange 16).filter (· ≤ x), index := true } s t) ∧
    (4096 ≤ s.index.toNat + x.val → Raises (.loadIntoRegisters x) s (.memoryOutOfRange (max s.index.toNat 4096)))

/-- R282, in every state whose memory is in its canonical form. -/
def Obligations.DecimalConversionStoresThreeDigits : Prop :=
  RowSelects 0xF0FF 0xF033 (fun _ op => .storeDecimalConversion (opX op)) ∧
  ∀ (x : Reg) (s : State), s.mem.wf = true →
    (s.index.toNat + 2 < 4096 → ∃ t, exec (.storeDecimalConversion x) s = .next t ∧
      (t.byteAt s.index.toNat).toNat = (s.reg x).toNat / 100 ∧
      (t.byteAt (s.index.toNat + 1)).toNat = (s.reg x).toNat / 10 % 10 ∧
      (t.byteAt (s.index.toNat + 2)).toNat = (s.reg x).toNat % 10 ∧ t.pc = s.pc + 2 ∧
      ChangesOnly { first := s.index.toNat, count := 3 } s t) ∧
    (4096 ≤ s.index.toNat + 2 →
      Raises (.storeDecimalConversion x) s (.memoryOutOfRange (max s.index.toNat 4096)))

/-- The round trip of 95_test_vectors.md L1-8, as C3 reads it: registers stored at `I` and loaded back, from any state
with that memory and that `I`, are the registers stored. -/
def Obligations.StoreThenLoadGivesTheRegistersBack : Prop :=
  ∀ (x : Reg) (s t u : State), s.mem.wf = true → s.index.toNat + x.val < 4096 →
    exec (.storeRegisters x) s = .next t → u.mem = t.mem → u.index = s.index →
    ∃ w, exec (.loadIntoRegisters x) u = .next w ∧ (∀ k : Reg, k ≤ x → w.reg k = s.reg k) ∧
      ∀ k : Reg, x < k → w.reg k = u.reg k

/-! ## Random byte and machine routine -/

/-- R330: the step's random byte is `rnd` of the state the instruction is executed in, and the statement holds for every
value of it (log 5). -/
def Obligations.RandomAndMasksTheRandomByte : Prop :=
  RowSelects 0xF000 0xC000 (fun _ op => .randomAnd (opX op) (opNN op)) ∧
  ∀ (x : Reg) (nn : Byte) (s : State), ∃ t, exec (.randomAnd x nn) s = .next t ∧
    (∀ j, (t.reg x).getLsbD j = (s.rnd.getLsbD j && nn.getLsbD j)) ∧ t.pc = s.pc + 2 ∧
    ChangesOnly { regs := [x] } s t

/-- R331 (D4, the spec's own choice): nothing but `PC` changes. -/
def Obligations.MachineRoutineOnlyAdvances : Prop :=
  ∀ (nnn : Addr) (s : State), ∃ t, exec (.machineRoutine nnn) s = .next t ∧ t.pc = s.pc + 2 ∧ ChangesOnly {} s t
end

