-- ==== Sys2Proof/Laws/Memory.lean ====
section
/-! SUPPORT. Memory: read after write, the canonical form, byte strings, and the range check in closed form. -/

namespace Sys2Proof.Machine

/-! ## One byte -/

@[simp] theorem Memory.read_nil (a : Nat) : Memory.read [] a = unlistedByte a := rfl

theorem Memory.read_cons (a' : Nat) (b : Byte) (m : Memory) (a : Nat) :
    Memory.read ((a', b) :: m) a = if a' = a then b else Memory.read m a := rfl

/-- Below the canonical form's lower bound nothing is listed. -/
theorem Memory.read_of_wfFrom {m : Memory} {lo a : Nat} (h : m.wfFrom lo = true) (ha : a < lo) :
    m.read a = unlistedByte a := by
  induction m generalizing lo with
  | nil => rfl
  | cons c m ih =>
    obtain ⟨a', b⟩ := c
    simp only [Memory.wfFrom, Bool.and_eq_true, decide_eq_true_eq] at h
    rw [Memory.read_cons, if_neg (by omega), ih h.2 (by omega)]

/-- A lower bound may be lowered. -/
theorem Memory.wfFrom_mono {m : Memory} {lo lo' : Nat} (h : m.wfFrom lo = true) (hl : lo' ≤ lo) :
    m.wfFrom lo' = true := by
  cases m with
  | nil => rfl
  | cons c m =>
    obtain ⟨a', b⟩ := c
    simp only [Memory.wfFrom, Bool.and_eq_true, decide_eq_true_eq] at h ⊢
    exact ⟨⟨⟨by omega, h.1.1.2⟩, h.1.2⟩, h.2⟩

theorem Memory.read_consCell {m : Memory} {a : Nat} (b : Byte) (hm : m.wfFrom (a + 1) = true) (a' : Nat) :
    (Memory.cons a b m).read a' = if a' = a then b else m.read a' := by
  unfold Memory.cons
  by_cases hb : b = unlistedByte a
  · by_cases ha : a' = a
    · subst ha; rw [if_pos hb, if_pos rfl, Memory.read_of_wfFrom hm (by omega), hb]
    · rw [if_pos hb, if_neg ha]
  · rw [if_neg hb, Memory.read_cons]
    simp only [eq_comm]

/-- READ AFTER WRITE: the written address reads as the byte written, every other address as before. -/
theorem Memory.read_write {m : Memory} {lo : Nat} (h : m.wfFrom lo = true) (a : Nat) (b : Byte) (a' : Nat) :
    (m.write a b).read a' = if a' = a then b else m.read a' := by
  induction m generalizing lo with
  | nil => exact Memory.read_consCell (m := []) b rfl a'
  | cons c m ih =>
    obtain ⟨c, b'⟩ := c
    have h' := h
    simp only [Memory.wfFrom, Bool.and_eq_true, decide_eq_true_eq] at h'
    simp only [Memory.write]
    split
    · refine Memory.read_consCell b ?_ a'
      simp only [Memory.wfFrom, Bool.and_eq_true, decide_eq_true_eq]
      exact ⟨⟨⟨by omega, h'.1.1.2⟩, h'.1.2⟩, h'.2⟩
    · split
      · next hac =>
        subst hac
        rw [Memory.read_consCell b h'.2, Memory.read_cons]
        by_cases ha : a' = a
        · simp [ha]
        · rw [if_neg ha, if_neg ha, if_neg (Ne.symm ha)]
      · rw [Memory.read_cons, Memory.read_cons, ih h'.2]
        by_cases ha : c = a'
        · rw [if_pos ha, if_pos ha, if_neg (by omega)]
        · rw [if_neg ha, if_neg ha]

theorem Memory.wfFrom_consCell {m : Memory} {lo a : Nat} (b : Byte) (hm : m.wfFrom (a + 1) = true) (hl : lo ≤ a)
    (ha : a < memSize) : (Memory.cons a b m).wfFrom lo = true := by
  unfold Memory.cons
  split
  · exact Memory.wfFrom_mono hm (by omega)
  · next hb => simp [Memory.wfFrom, hl, ha, hb, hm]

theorem Memory.wfFrom_write {m : Memory} {lo : Nat} (h : m.wfFrom lo = true) {a : Nat} (b : Byte) (hl : lo ≤ a)
    (ha : a < memSize) : (m.write a b).wfFrom lo = true := by
  induction m generalizing lo with
  | nil => exact Memory.wfFrom_consCell b rfl hl ha
  | cons c m ih =>
    obtain ⟨c, b'⟩ := c
    simp only [Memory.wfFrom, Bool.and_eq_true, decide_eq_true_eq] at h
    simp only [Memory.write]
    split
    · refine Memory.wfFrom_consCell b ?_ hl ha
      simp only [Memory.wfFrom, Bool.and_eq_true, decide_eq_true_eq]
      exact ⟨⟨⟨by omega, h.1.1.2⟩, h.1.2⟩, h.2⟩
    · split
      · next hac => subst hac; exact Memory.wfFrom_consCell b h.2 hl ha
      · simp only [Memory.wfFrom, Bool.and_eq_true, decide_eq_true_eq]
        exact ⟨⟨⟨h.1.1.1, h.1.1.2⟩, h.1.2⟩, ih h.2 (by omega)⟩

/-- A write inside the address space keeps the canonical form. -/
theorem Memory.wf_write {m : Memory} (h : m.wf = true) {a : Nat} (b : Byte) (ha : a < memSize) :
    (m.write a b).wf = true := Memory.wfFrom_write h b (Nat.zero_le a) ha

/-- Equal memories are equal data: canonical memories that read alike are the same list. -/
theorem Memory.wfFrom_ext {m n : Memory} {lo : Nat} (hm : m.wfFrom lo = true) (hn : n.wfFrom lo = true)
    (h : ∀ a, m.read a = n.read a) : m = n := by
  induction m generalizing n lo with
  | nil =>
    cases n with
    | nil => rfl
    | cons c n =>
      obtain ⟨a, b⟩ := c
      simp only [Memory.wfFrom, Bool.and_eq_true, decide_eq_true_eq, bne_iff_ne] at hn
      have := h a
      rw [Memory.read_cons, if_pos rfl] at this
      exact absurd this.symm hn.1.2
  | cons c m ih =>
    obtain ⟨a, b⟩ := c
    simp only [Memory.wfFrom, Bool.and_eq_true, decide_eq_true_eq, bne_iff_ne] at hm
    have ha := h a
    rw [Memory.read_cons, if_pos rfl] at ha
    cases n with
    | nil => exact absurd ha hm.1.2
    | cons c' n =>
      obtain ⟨a', b'⟩ := c'
      simp only [Memory.wfFrom, Bool.and_eq_true, decide_eq_true_eq, bne_iff_ne] at hn
      have ha' := h a'
      rw [Memory.read_cons, Memory.read_cons, if_pos rfl] at ha'
      rw [Memory.read_cons] at ha
      have hk : a = a' := by
        by_contra hne
        rw [if_neg (Ne.symm hne)] at ha
        rw [if_neg hne] at ha'
        by_cases hlt : a < a'
        · exact hm.1.2 (ha.trans (Memory.read_of_wfFrom hn.2 (by omega)))
        · exact hn.1.2 (ha'.symm.trans (Memory.read_of_wfFrom hm.2 (by omega)))
      subst hk
      rw [if_pos rfl] at ha
      subst ha
      refine congrArg _ (ih hm.2 hn.2 fun x => ?_)
      have hx := h x
      rw [Memory.read_cons, Memory.read_cons] at hx
      by_cases hax : a = x
      · subst hax
        rw [Memory.read_of_wfFrom hm.2 (by omega), Memory.read_of_wfFrom hn.2 (by omega)]
      · rwa [if_neg hax, if_neg hax] at hx

theorem Memory.wf_ext {m n : Memory} (hm : m.wf = true) (hn : n.wf = true) (h : ∀ a, m.read a = n.read a) : m = n :=
  Memory.wfFrom_ext hm hn h

/-! ## Byte strings -/

@[simp] theorem Memory.length_readBytes (m : Memory) (addr n : Nat) : (m.readBytes addr n).length = n := by
  induction n generalizing addr with
  | zero => rfl
  | succ n ih => simp [Memory.readBytes, ih]

theorem Memory.getElem_readBytes (m : Memory) (addr n k : Nat) (h : k < (m.readBytes addr n).length) :
    (m.readBytes addr n)[k] = m.read (addr + k) := by
  induction n generalizing addr k with
  | zero => simp at h
  | succ n ih =>
    cases k with
    | zero => rfl
    | succ k =>
      simp only [Memory.readBytes, List.getElem_cons_succ, ih]
      congr 1; omega

/-- A write of bytes inside the address space keeps the canonical form. -/
theorem Memory.wf_writeBytes {m : Memory} (h : m.wf = true) (addr : Nat) (bytes : List Byte)
    (hr : addr + bytes.length ≤ memSize) : (m.writeBytes addr bytes).wf = true := by
  induction bytes generalizing m addr with
  | nil => exact h
  | cons b bs ih =>
    simp only [List.length_cons] at hr
    exact ih (Memory.wf_write h b (by omega)) (addr + 1) (by omega)

/-- READ AFTER WRITE of bytes: byte `k` at `addr + k`, every other address as before. -/
theorem Memory.read_writeBytes {m : Memory} (h : m.wf = true) (addr : Nat) (bytes : List Byte)
    (hr : addr + bytes.length ≤ memSize) (a : Nat) :
    (m.writeBytes addr bytes).read a =
      if addr ≤ a ∧ a < addr + bytes.length then bytes.getD (a - addr) 0 else m.read a := by
  induction bytes generalizing m addr with
  | nil => rw [if_neg (by simp)]; rfl
  | cons b bs ih =>
    simp only [List.length_cons] at hr ⊢
    rw [Memory.writeBytes, ih (Memory.wf_write h b (by omega)) (addr + 1) (by omega), Memory.read_write h]
    by_cases h1 : a = addr
    · subst h1
      rw [if_neg (by omega), if_pos rfl, if_pos (by omega), Nat.sub_self]; rfl
    · rw [if_neg h1]
      by_cases h2 : addr + 1 ≤ a ∧ a < addr + 1 + bs.length
      · rw [if_pos h2, if_pos (by omega), show a - addr = (a - (addr + 1)) + 1 by omega, List.getD_cons_succ]
      · rw [if_neg h2, if_neg (by omega)]

/-! ## Other addresses, whatever the form -/

theorem Memory.read_cons_ne (m : Memory) {a a' : Nat} (b : Byte) (h : a' ≠ a) :
    (Memory.cons a b m).read a' = m.read a' := by
  unfold Memory.cons
  split
  · rfl
  · rw [Memory.read_cons, if_neg (Ne.symm h)]

/-- A write leaves every other address alone, in any memory. -/
theorem Memory.read_write_ne (m : Memory) {a a' : Nat} (b : Byte) (h : a' ≠ a) :
    (m.write a b).read a' = m.read a' := by
  induction m with
  | nil => exact Memory.read_cons_ne [] b h
  | cons c m ih =>
    obtain ⟨x, y⟩ := c
    rw [Memory.write]
    split
    · exact Memory.read_cons_ne _ b h
    · split
      · rw [Memory.read_cons_ne _ b h, Memory.read_cons, if_neg (by omega)]
      · rw [Memory.read_cons, Memory.read_cons, ih]

/-- Writing bytes leaves every address outside them alone, in any memory. -/
theorem Memory.read_writeBytes_ne (m : Memory) (addr : Nat) (bytes : List Byte) {a : Nat}
    (h : a < addr ∨ addr + bytes.length ≤ a) : (m.writeBytes addr bytes).read a = m.read a := by
  induction bytes generalizing m addr with
  | nil => rfl
  | cons b bs ih =>
    rw [List.length_cons] at h
    rw [Memory.writeBytes, ih _ _ (by omega), Memory.read_write_ne _ _ (by omega)]

/-! ## The range check -/

/-- The range check passes exactly when no byte lies at 4096 or above (R72). -/
theorem firstOutOfRange_none {addr n : Nat} : firstOutOfRange addr n = none ↔ n = 0 ∨ addr + n ≤ memSize := by
  induction n generalizing addr with
  | zero => simp [firstOutOfRange]
  | succ n ih =>
    simp only [firstOutOfRange]
    split
    · next h => simp; omega
    · next h => rw [ih]; omega

/-- The lowest out-of-range address in closed form (R72). -/
theorem firstOutOfRange_some {addr n : Nat} (h : n ≠ 0 ∧ memSize < addr + n) :
    firstOutOfRange addr n = some (max addr memSize) := by
  induction n generalizing addr with
  | zero => exact absurd rfl h.1
  | succ n ih =>
    simp only [firstOutOfRange]
    split
    · next hs => rw [Nat.max_eq_left hs]
    · next hs =>
      rw [ih ⟨by omega, by omega⟩]
      congr 1; omega

/-- `MemRead` of bytes that all exist (R72). -/
theorem State.memRead_ok (s : State) {addr n : Nat} (h : n = 0 ∨ addr + n ≤ memSize) :
    s.memRead addr n = .ok (s.mem.readBytes addr n) := by
  rw [State.memRead, firstOutOfRange_none.mpr h]

/-- `MemRead` that touches an address that does not exist (R72). -/
theorem State.memRead_error (s : State) {addr n : Nat} (h : n ≠ 0 ∧ memSize < addr + n) :
    s.memRead addr n = .error (.memoryOutOfRange (max addr memSize)) := by
  rw [State.memRead, firstOutOfRange_some h]

/-- `MemWrite` of bytes that all exist (R72). -/
theorem State.memWrite_ok (s : State) {addr : Nat} {bytes : List Byte}
    (h : bytes.length = 0 ∨ addr + bytes.length ≤ memSize) :
    s.memWrite addr bytes = .ok (s.mem.writeBytes addr bytes) := by
  rw [State.memWrite, firstOutOfRange_none.mpr h]

/-- `MemWrite` that touches an address that does not exist (R72). -/
theorem State.memWrite_error (s : State) {addr : Nat} {bytes : List Byte}
    (h : bytes.length ≠ 0 ∧ memSize < addr + bytes.length) :
    s.memWrite addr bytes = .error (.memoryOutOfRange (max addr memSize)) := by
  rw [State.memWrite, firstOutOfRange_some h]

/-- The one way `MemWrite` succeeds: the range is inside the address space. -/
theorem State.memWrite_inv {s : State} {addr : Nat} {bytes : List Byte} {m : Memory} (h : s.memWrite addr bytes = .ok m) :
    m = s.mem.writeBytes addr bytes ∧ (bytes.length = 0 ∨ addr + bytes.length ≤ memSize) := by
  unfold State.memWrite at h
  split at h
  · cases h
  · next hn => cases h; exact ⟨rfl, firstOutOfRange_none.mp hn⟩

end Sys2Proof.Machine
end

