-- ==== Sys2Proof/Laws/State.lean ====
section
/-! SUPPORT. What each named update of the state leaves in each field. -/

namespace Sys2Proof.Machine.State

variable (s : State)

@[simp] theorem withV_v (a : Vector Byte 16) : (s.withV a).v = a := rfl
@[simp] theorem withV_index (a : Vector Byte 16) : (s.withV a).index = s.index := rfl
@[simp] theorem withV_pc (a : Vector Byte 16) : (s.withV a).pc = s.pc := rfl
@[simp] theorem withV_stack (a : Vector Byte 16) : (s.withV a).stack = s.stack := rfl
@[simp] theorem withV_mem (a : Vector Byte 16) : (s.withV a).mem = s.mem := rfl
@[simp] theorem withV_disp (a : Vector Byte 16) : (s.withV a).disp = s.disp := rfl
@[simp] theorem withV_dt (a : Vector Byte 16) : (s.withV a).dt = s.dt := rfl
@[simp] theorem withV_st (a : Vector Byte 16) : (s.withV a).st = s.st := rfl
@[simp] theorem withV_keys (a : Vector Byte 16) : (s.withV a).keys = s.keys := rfl
@[simp] theorem withV_waitReg (a : Vector Byte 16) : (s.withV a).waitReg = s.waitReg := rfl
@[simp] theorem withV_relEvent (a : Vector Byte 16) : (s.withV a).relEvent = s.relEvent := rfl
@[simp] theorem withV_fault (a : Vector Byte 16) : (s.withV a).fault = s.fault := rfl
@[simp] theorem withV_cfg (a : Vector Byte 16) : (s.withV a).cfg = s.cfg := rfl
@[simp] theorem withV_rnd (a : Vector Byte 16) : (s.withV a).rnd = s.rnd := rfl
@[simp] theorem withV_draws (a : Vector Byte 16) : (s.withV a).draws = s.draws := rfl
@[simp] theorem withV_driver (a : Vector Byte 16) : (s.withV a).driver = s.driver := rfl

@[simp] theorem withIndex_v (a : Word) : (s.withIndex a).v = s.v := rfl
@[simp] theorem withIndex_index (a : Word) : (s.withIndex a).index = a := rfl
@[simp] theorem withIndex_pc (a : Word) : (s.withIndex a).pc = s.pc := rfl
@[simp] theorem withIndex_stack (a : Word) : (s.withIndex a).stack = s.stack := rfl
@[simp] theorem withIndex_mem (a : Word) : (s.withIndex a).mem = s.mem := rfl
@[simp] theorem withIndex_disp (a : Word) : (s.withIndex a).disp = s.disp := rfl
@[simp] theorem withIndex_dt (a : Word) : (s.withIndex a).dt = s.dt := rfl
@[simp] theorem withIndex_st (a : Word) : (s.withIndex a).st = s.st := rfl
@[simp] theorem withIndex_keys (a : Word) : (s.withIndex a).keys = s.keys := rfl
@[simp] theorem withIndex_waitReg (a : Word) : (s.withIndex a).waitReg = s.waitReg := rfl
@[simp] theorem withIndex_relEvent (a : Word) : (s.withIndex a).relEvent = s.relEvent := rfl
@[simp] theorem withIndex_fault (a : Word) : (s.withIndex a).fault = s.fault := rfl
@[simp] theorem withIndex_cfg (a : Word) : (s.withIndex a).cfg = s.cfg := rfl
@[simp] theorem withIndex_rnd (a : Word) : (s.withIndex a).rnd = s.rnd := rfl
@[simp] theorem withIndex_draws (a : Word) : (s.withIndex a).draws = s.draws := rfl
@[simp] theorem withIndex_driver (a : Word) : (s.withIndex a).driver = s.driver := rfl

@[simp] theorem withPc_v (a : Word) : (s.withPc a).v = s.v := rfl
@[simp] theorem withPc_index (a : Word) : (s.withPc a).index = s.index := rfl
@[simp] theorem withPc_pc (a : Word) : (s.withPc a).pc = a := rfl
@[simp] theorem withPc_stack (a : Word) : (s.withPc a).stack = s.stack := rfl
@[simp] theorem withPc_mem (a : Word) : (s.withPc a).mem = s.mem := rfl
@[simp] theorem withPc_disp (a : Word) : (s.withPc a).disp = s.disp := rfl
@[simp] theorem withPc_dt (a : Word) : (s.withPc a).dt = s.dt := rfl
@[simp] theorem withPc_st (a : Word) : (s.withPc a).st = s.st := rfl
@[simp] theorem withPc_keys (a : Word) : (s.withPc a).keys = s.keys := rfl
@[simp] theorem withPc_waitReg (a : Word) : (s.withPc a).waitReg = s.waitReg := rfl
@[simp] theorem withPc_relEvent (a : Word) : (s.withPc a).relEvent = s.relEvent := rfl
@[simp] theorem withPc_fault (a : Word) : (s.withPc a).fault = s.fault := rfl
@[simp] theorem withPc_cfg (a : Word) : (s.withPc a).cfg = s.cfg := rfl
@[simp] theorem withPc_rnd (a : Word) : (s.withPc a).rnd = s.rnd := rfl
@[simp] theorem withPc_draws (a : Word) : (s.withPc a).draws = s.draws := rfl
@[simp] theorem withPc_driver (a : Word) : (s.withPc a).driver = s.driver := rfl

@[simp] theorem withStack_v (a : List Word) : (s.withStack a).v = s.v := rfl
@[simp] theorem withStack_index (a : List Word) : (s.withStack a).index = s.index := rfl
@[simp] theorem withStack_pc (a : List Word) : (s.withStack a).pc = s.pc := rfl
@[simp] theorem withStack_stack (a : List Word) : (s.withStack a).stack = a := rfl
@[simp] theorem withStack_mem (a : List Word) : (s.withStack a).mem = s.mem := rfl
@[simp] theorem withStack_disp (a : List Word) : (s.withStack a).disp = s.disp := rfl
@[simp] theorem withStack_dt (a : List Word) : (s.withStack a).dt = s.dt := rfl
@[simp] theorem withStack_st (a : List Word) : (s.withStack a).st = s.st := rfl
@[simp] theorem withStack_keys (a : List Word) : (s.withStack a).keys = s.keys := rfl
@[simp] theorem withStack_waitReg (a : List Word) : (s.withStack a).waitReg = s.waitReg := rfl
@[simp] theorem withStack_relEvent (a : List Word) : (s.withStack a).relEvent = s.relEvent := rfl
@[simp] theorem withStack_fault (a : List Word) : (s.withStack a).fault = s.fault := rfl
@[simp] theorem withStack_cfg (a : List Word) : (s.withStack a).cfg = s.cfg := rfl
@[simp] theorem withStack_rnd (a : List Word) : (s.withStack a).rnd = s.rnd := rfl
@[simp] theorem withStack_draws (a : List Word) : (s.withStack a).draws = s.draws := rfl
@[simp] theorem withStack_driver (a : List Word) : (s.withStack a).driver = s.driver := rfl

@[simp] theorem withMem_v (a : Memory) : (s.withMem a).v = s.v := rfl
@[simp] theorem withMem_index (a : Memory) : (s.withMem a).index = s.index := rfl
@[simp] theorem withMem_pc (a : Memory) : (s.withMem a).pc = s.pc := rfl
@[simp] theorem withMem_stack (a : Memory) : (s.withMem a).stack = s.stack := rfl
@[simp] theorem withMem_mem (a : Memory) : (s.withMem a).mem = a := rfl
@[simp] theorem withMem_disp (a : Memory) : (s.withMem a).disp = s.disp := rfl
@[simp] theorem withMem_dt (a : Memory) : (s.withMem a).dt = s.dt := rfl
@[simp] theorem withMem_st (a : Memory) : (s.withMem a).st = s.st := rfl
@[simp] theorem withMem_keys (a : Memory) : (s.withMem a).keys = s.keys := rfl
@[simp] theorem withMem_waitReg (a : Memory) : (s.withMem a).waitReg = s.waitReg := rfl
@[simp] theorem withMem_relEvent (a : Memory) : (s.withMem a).relEvent = s.relEvent := rfl
@[simp] theorem withMem_fault (a : Memory) : (s.withMem a).fault = s.fault := rfl
@[simp] theorem withMem_cfg (a : Memory) : (s.withMem a).cfg = s.cfg := rfl
@[simp] theorem withMem_rnd (a : Memory) : (s.withMem a).rnd = s.rnd := rfl
@[simp] theorem withMem_draws (a : Memory) : (s.withMem a).draws = s.draws := rfl
@[simp] theorem withMem_driver (a : Memory) : (s.withMem a).driver = s.driver := rfl

@[simp] theorem withDisp_v (a : Display) : (s.withDisp a).v = s.v := rfl
@[simp] theorem withDisp_index (a : Display) : (s.withDisp a).index = s.index := rfl
@[simp] theorem withDisp_pc (a : Display) : (s.withDisp a).pc = s.pc := rfl
@[simp] theorem withDisp_stack (a : Display) : (s.withDisp a).stack = s.stack := rfl
@[simp] theorem withDisp_mem (a : Display) : (s.withDisp a).mem = s.mem := rfl
@[simp] theorem withDisp_disp (a : Display) : (s.withDisp a).disp = a := rfl
@[simp] theorem withDisp_dt (a : Display) : (s.withDisp a).dt = s.dt := rfl
@[simp] theorem withDisp_st (a : Display) : (s.withDisp a).st = s.st := rfl
@[simp] theorem withDisp_keys (a : Display) : (s.withDisp a).keys = s.keys := rfl
@[simp] theorem withDisp_waitReg (a : Display) : (s.withDisp a).waitReg = s.waitReg := rfl
@[simp] theorem withDisp_relEvent (a : Display) : (s.withDisp a).relEvent = s.relEvent := rfl
@[simp] theorem withDisp_fault (a : Display) : (s.withDisp a).fault = s.fault := rfl
@[simp] theorem withDisp_cfg (a : Display) : (s.withDisp a).cfg = s.cfg := rfl
@[simp] theorem withDisp_rnd (a : Display) : (s.withDisp a).rnd = s.rnd := rfl
@[simp] theorem withDisp_draws (a : Display) : (s.withDisp a).draws = s.draws := rfl
@[simp] theorem withDisp_driver (a : Display) : (s.withDisp a).driver = s.driver := rfl

@[simp] theorem withDt_v (a : Timer) : (s.withDt a).v = s.v := rfl
@[simp] theorem withDt_index (a : Timer) : (s.withDt a).index = s.index := rfl
@[simp] theorem withDt_pc (a : Timer) : (s.withDt a).pc = s.pc := rfl
@[simp] theorem withDt_stack (a : Timer) : (s.withDt a).stack = s.stack := rfl
@[simp] theorem withDt_mem (a : Timer) : (s.withDt a).mem = s.mem := rfl
@[simp] theorem withDt_disp (a : Timer) : (s.withDt a).disp = s.disp := rfl
@[simp] theorem withDt_dt (a : Timer) : (s.withDt a).dt = a := rfl
@[simp] theorem withDt_st (a : Timer) : (s.withDt a).st = s.st := rfl
@[simp] theorem withDt_keys (a : Timer) : (s.withDt a).keys = s.keys := rfl
@[simp] theorem withDt_waitReg (a : Timer) : (s.withDt a).waitReg = s.waitReg := rfl
@[simp] theorem withDt_relEvent (a : Timer) : (s.withDt a).relEvent = s.relEvent := rfl
@[simp] theorem withDt_fault (a : Timer) : (s.withDt a).fault = s.fault := rfl
@[simp] theorem withDt_cfg (a : Timer) : (s.withDt a).cfg = s.cfg := rfl
@[simp] theorem withDt_rnd (a : Timer) : (s.withDt a).rnd = s.rnd := rfl
@[simp] theorem withDt_draws (a : Timer) : (s.withDt a).draws = s.draws := rfl
@[simp] theorem withDt_driver (a : Timer) : (s.withDt a).driver = s.driver := rfl

@[simp] theorem withSt_v (a : Timer) : (s.withSt a).v = s.v := rfl
@[simp] theorem withSt_index (a : Timer) : (s.withSt a).index = s.index := rfl
@[simp] theorem withSt_pc (a : Timer) : (s.withSt a).pc = s.pc := rfl
@[simp] theorem withSt_stack (a : Timer) : (s.withSt a).stack = s.stack := rfl
@[simp] theorem withSt_mem (a : Timer) : (s.withSt a).mem = s.mem := rfl
@[simp] theorem withSt_disp (a : Timer) : (s.withSt a).disp = s.disp := rfl
@[simp] theorem withSt_dt (a : Timer) : (s.withSt a).dt = s.dt := rfl
@[simp] theorem withSt_st (a : Timer) : (s.withSt a).st = a := rfl
@[simp] theorem withSt_keys (a : Timer) : (s.withSt a).keys = s.keys := rfl
@[simp] theorem withSt_waitReg (a : Timer) : (s.withSt a).waitReg = s.waitReg := rfl
@[simp] theorem withSt_relEvent (a : Timer) : (s.withSt a).relEvent = s.relEvent := rfl
@[simp] theorem withSt_fault (a : Timer) : (s.withSt a).fault = s.fault := rfl
@[simp] theorem withSt_cfg (a : Timer) : (s.withSt a).cfg = s.cfg := rfl
@[simp] theorem withSt_rnd (a : Timer) : (s.withSt a).rnd = s.rnd := rfl
@[simp] theorem withSt_draws (a : Timer) : (s.withSt a).draws = s.draws := rfl
@[simp] theorem withSt_driver (a : Timer) : (s.withSt a).driver = s.driver := rfl

@[simp] theorem withKeys_v (a : Vector KeySlot 16) : (s.withKeys a).v = s.v := rfl
@[simp] theorem withKeys_index (a : Vector KeySlot 16) : (s.withKeys a).index = s.index := rfl
@[simp] theorem withKeys_pc (a : Vector KeySlot 16) : (s.withKeys a).pc = s.pc := rfl
@[simp] theorem withKeys_stack (a : Vector KeySlot 16) : (s.withKeys a).stack = s.stack := rfl
@[simp] theorem withKeys_mem (a : Vector KeySlot 16) : (s.withKeys a).mem = s.mem := rfl
@[simp] theorem withKeys_disp (a : Vector KeySlot 16) : (s.withKeys a).disp = s.disp := rfl
@[simp] theorem withKeys_dt (a : Vector KeySlot 16) : (s.withKeys a).dt = s.dt := rfl
@[simp] theorem withKeys_st (a : Vector KeySlot 16) : (s.withKeys a).st = s.st := rfl
@[simp] theorem withKeys_keys (a : Vector KeySlot 16) : (s.withKeys a).keys = a := rfl
@[simp] theorem withKeys_waitReg (a : Vector KeySlot 16) : (s.withKeys a).waitReg = s.waitReg := rfl
@[simp] theorem withKeys_relEvent (a : Vector KeySlot 16) : (s.withKeys a).relEvent = s.relEvent := rfl
@[simp] theorem withKeys_fault (a : Vector KeySlot 16) : (s.withKeys a).fault = s.fault := rfl
@[simp] theorem withKeys_cfg (a : Vector KeySlot 16) : (s.withKeys a).cfg = s.cfg := rfl
@[simp] theorem withKeys_rnd (a : Vector KeySlot 16) : (s.withKeys a).rnd = s.rnd := rfl
@[simp] theorem withKeys_draws (a : Vector KeySlot 16) : (s.withKeys a).draws = s.draws := rfl
@[simp] theorem withKeys_driver (a : Vector KeySlot 16) : (s.withKeys a).driver = s.driver := rfl

@[simp] theorem withWaitReg_v (a : Option Reg) : (s.withWaitReg a).v = s.v := rfl
@[simp] theorem withWaitReg_index (a : Option Reg) : (s.withWaitReg a).index = s.index := rfl
@[simp] theorem withWaitReg_pc (a : Option Reg) : (s.withWaitReg a).pc = s.pc := rfl
@[simp] theorem withWaitReg_stack (a : Option Reg) : (s.withWaitReg a).stack = s.stack := rfl
@[simp] theorem withWaitReg_mem (a : Option Reg) : (s.withWaitReg a).mem = s.mem := rfl
@[simp] theorem withWaitReg_disp (a : Option Reg) : (s.withWaitReg a).disp = s.disp := rfl
@[simp] theorem withWaitReg_dt (a : Option Reg) : (s.withWaitReg a).dt = s.dt := rfl
@[simp] theorem withWaitReg_st (a : Option Reg) : (s.withWaitReg a).st = s.st := rfl
@[simp] theorem withWaitReg_keys (a : Option Reg) : (s.withWaitReg a).keys = s.keys := rfl
@[simp] theorem withWaitReg_waitReg (a : Option Reg) : (s.withWaitReg a).waitReg = a := rfl
@[simp] theorem withWaitReg_relEvent (a : Option Reg) : (s.withWaitReg a).relEvent = s.relEvent := rfl
@[simp] theorem withWaitReg_fault (a : Option Reg) : (s.withWaitReg a).fault = s.fault := rfl
@[simp] theorem withWaitReg_cfg (a : Option Reg) : (s.withWaitReg a).cfg = s.cfg := rfl
@[simp] theorem withWaitReg_rnd (a : Option Reg) : (s.withWaitReg a).rnd = s.rnd := rfl
@[simp] theorem withWaitReg_draws (a : Option Reg) : (s.withWaitReg a).draws = s.draws := rfl
@[simp] theorem withWaitReg_driver (a : Option Reg) : (s.withWaitReg a).driver = s.driver := rfl

@[simp] theorem withRelEvent_v (a : Option Key) : (s.withRelEvent a).v = s.v := rfl
@[simp] theorem withRelEvent_index (a : Option Key) : (s.withRelEvent a).index = s.index := rfl
@[simp] theorem withRelEvent_pc (a : Option Key) : (s.withRelEvent a).pc = s.pc := rfl
@[simp] theorem withRelEvent_stack (a : Option Key) : (s.withRelEvent a).stack = s.stack := rfl
@[simp] theorem withRelEvent_mem (a : Option Key) : (s.withRelEvent a).mem = s.mem := rfl
@[simp] theorem withRelEvent_disp (a : Option Key) : (s.withRelEvent a).disp = s.disp := rfl
@[simp] theorem withRelEvent_dt (a : Option Key) : (s.withRelEvent a).dt = s.dt := rfl
@[simp] theorem withRelEvent_st (a : Option Key) : (s.withRelEvent a).st = s.st := rfl
@[simp] theorem withRelEvent_keys (a : Option Key) : (s.withRelEvent a).keys = s.keys := rfl
@[simp] theorem withRelEvent_waitReg (a : Option Key) : (s.withRelEvent a).waitReg = s.waitReg := rfl
@[simp] theorem withRelEvent_relEvent (a : Option Key) : (s.withRelEvent a).relEvent = a := rfl
@[simp] theorem withRelEvent_fault (a : Option Key) : (s.withRelEvent a).fault = s.fault := rfl
@[simp] theorem withRelEvent_cfg (a : Option Key) : (s.withRelEvent a).cfg = s.cfg := rfl
@[simp] theorem withRelEvent_rnd (a : Option Key) : (s.withRelEvent a).rnd = s.rnd := rfl
@[simp] theorem withRelEvent_draws (a : Option Key) : (s.withRelEvent a).draws = s.draws := rfl
@[simp] theorem withRelEvent_driver (a : Option Key) : (s.withRelEvent a).driver = s.driver := rfl

@[simp] theorem withFault_v (a : Option Fault) : (s.withFault a).v = s.v := rfl
@[simp] theorem withFault_index (a : Option Fault) : (s.withFault a).index = s.index := rfl
@[simp] theorem withFault_pc (a : Option Fault) : (s.withFault a).pc = s.pc := rfl
@[simp] theorem withFault_stack (a : Option Fault) : (s.withFault a).stack = s.stack := rfl
@[simp] theorem withFault_mem (a : Option Fault) : (s.withFault a).mem = s.mem := rfl
@[simp] theorem withFault_disp (a : Option Fault) : (s.withFault a).disp = s.disp := rfl
@[simp] theorem withFault_dt (a : Option Fault) : (s.withFault a).dt = s.dt := rfl
@[simp] theorem withFault_st (a : Option Fault) : (s.withFault a).st = s.st := rfl
@[simp] theorem withFault_keys (a : Option Fault) : (s.withFault a).keys = s.keys := rfl
@[simp] theorem withFault_waitReg (a : Option Fault) : (s.withFault a).waitReg = s.waitReg := rfl
@[simp] theorem withFault_relEvent (a : Option Fault) : (s.withFault a).relEvent = s.relEvent := rfl
@[simp] theorem withFault_fault (a : Option Fault) : (s.withFault a).fault = a := rfl
@[simp] theorem withFault_cfg (a : Option Fault) : (s.withFault a).cfg = s.cfg := rfl
@[simp] theorem withFault_rnd (a : Option Fault) : (s.withFault a).rnd = s.rnd := rfl
@[simp] theorem withFault_draws (a : Option Fault) : (s.withFault a).draws = s.draws := rfl
@[simp] theorem withFault_driver (a : Option Fault) : (s.withFault a).driver = s.driver := rfl

@[simp] theorem withRnd_v (a : Byte) : (s.withRnd a).v = s.v := rfl
@[simp] theorem withRnd_index (a : Byte) : (s.withRnd a).index = s.index := rfl
@[simp] theorem withRnd_pc (a : Byte) : (s.withRnd a).pc = s.pc := rfl
@[simp] theorem withRnd_stack (a : Byte) : (s.withRnd a).stack = s.stack := rfl
@[simp] theorem withRnd_mem (a : Byte) : (s.withRnd a).mem = s.mem := rfl
@[simp] theorem withRnd_disp (a : Byte) : (s.withRnd a).disp = s.disp := rfl
@[simp] theorem withRnd_dt (a : Byte) : (s.withRnd a).dt = s.dt := rfl
@[simp] theorem withRnd_st (a : Byte) : (s.withRnd a).st = s.st := rfl
@[simp] theorem withRnd_keys (a : Byte) : (s.withRnd a).keys = s.keys := rfl
@[simp] theorem withRnd_waitReg (a : Byte) : (s.withRnd a).waitReg = s.waitReg := rfl
@[simp] theorem withRnd_relEvent (a : Byte) : (s.withRnd a).relEvent = s.relEvent := rfl
@[simp] theorem withRnd_fault (a : Byte) : (s.withRnd a).fault = s.fault := rfl
@[simp] theorem withRnd_cfg (a : Byte) : (s.withRnd a).cfg = s.cfg := rfl
@[simp] theorem withRnd_rnd (a : Byte) : (s.withRnd a).rnd = a := rfl
@[simp] theorem withRnd_draws (a : Byte) : (s.withRnd a).draws = s.draws := rfl
@[simp] theorem withRnd_driver (a : Byte) : (s.withRnd a).driver = s.driver := rfl

@[simp] theorem withDriver_v (a : List DriverOp) : (s.withDriver a).v = s.v := rfl
@[simp] theorem withDriver_index (a : List DriverOp) : (s.withDriver a).index = s.index := rfl
@[simp] theorem withDriver_pc (a : List DriverOp) : (s.withDriver a).pc = s.pc := rfl
@[simp] theorem withDriver_stack (a : List DriverOp) : (s.withDriver a).stack = s.stack := rfl
@[simp] theorem withDriver_mem (a : List DriverOp) : (s.withDriver a).mem = s.mem := rfl
@[simp] theorem withDriver_disp (a : List DriverOp) : (s.withDriver a).disp = s.disp := rfl
@[simp] theorem withDriver_dt (a : List DriverOp) : (s.withDriver a).dt = s.dt := rfl
@[simp] theorem withDriver_st (a : List DriverOp) : (s.withDriver a).st = s.st := rfl
@[simp] theorem withDriver_keys (a : List DriverOp) : (s.withDriver a).keys = s.keys := rfl
@[simp] theorem withDriver_waitReg (a : List DriverOp) : (s.withDriver a).waitReg = s.waitReg := rfl
@[simp] theorem withDriver_relEvent (a : List DriverOp) : (s.withDriver a).relEvent = s.relEvent := rfl
@[simp] theorem withDriver_fault (a : List DriverOp) : (s.withDriver a).fault = s.fault := rfl
@[simp] theorem withDriver_cfg (a : List DriverOp) : (s.withDriver a).cfg = s.cfg := rfl
@[simp] theorem withDriver_rnd (a : List DriverOp) : (s.withDriver a).rnd = s.rnd := rfl
@[simp] theorem withDriver_draws (a : List DriverOp) : (s.withDriver a).draws = s.draws := rfl
@[simp] theorem withDriver_driver (a : List DriverOp) : (s.withDriver a).driver = a := rfl

end Sys2Proof.Machine.State
end

