-- ==== Sys2Proof/Laws/Registers.lean ====
section
/-! SUPPORT. Registers: what a write leaves, and what the register operations touch. -/

namespace Sys2Proof.Machine.State

variable (s : State)

@[simp] theorem setReg_index (x : Reg) (b : Byte) : (s.setReg x b).index = s.index := rfl
@[simp] theorem setReg_pc (x : Reg) (b : Byte) : (s.setReg x b).pc = s.pc := rfl
@[simp] theorem setReg_stack (x : Reg) (b : Byte) : (s.setReg x b).stack = s.stack := rfl
@[simp] theorem setReg_mem (x : Reg) (b : Byte) : (s.setReg x b).mem = s.mem := rfl
@[simp] theorem setReg_disp (x : Reg) (b : Byte) : (s.setReg x b).disp = s.disp := rfl
@[simp] theorem setReg_dt (x : Reg) (b : Byte) : (s.setReg x b).dt = s.dt := rfl
@[simp] theorem setReg_st (x : Reg) (b : Byte) : (s.setReg x b).st = s.st := rfl
@[simp] theorem setReg_keys (x : Reg) (b : Byte) : (s.setReg x b).keys = s.keys := rfl
@[simp] theorem setReg_waitReg (x : Reg) (b : Byte) : (s.setReg x b).waitReg = s.waitReg := rfl
@[simp] theorem setReg_relEvent (x : Reg) (b : Byte) : (s.setReg x b).relEvent = s.relEvent := rfl
@[simp] theorem setReg_fault (x : Reg) (b : Byte) : (s.setReg x b).fault = s.fault := rfl
@[simp] theorem setReg_cfg (x : Reg) (b : Byte) : (s.setReg x b).cfg = s.cfg := rfl
@[simp] theorem setReg_rnd (x : Reg) (b : Byte) : (s.setReg x b).rnd = s.rnd := rfl
@[simp] theorem setReg_draws (x : Reg) (b : Byte) : (s.setReg x b).draws = s.draws := rfl
@[simp] theorem setReg_driver (x : Reg) (b : Byte) : (s.setReg x b).driver = s.driver := rfl

@[simp] theorem setRegAndFlag_index (x : Reg) (b f : Byte) : (s.setRegAndFlag x b f).index = s.index := rfl
@[simp] theorem setRegAndFlag_pc (x : Reg) (b f : Byte) : (s.setRegAndFlag x b f).pc = s.pc := rfl
@[simp] theorem setRegAndFlag_stack (x : Reg) (b f : Byte) : (s.setRegAndFlag x b f).stack = s.stack := rfl
@[simp] theorem setRegAndFlag_mem (x : Reg) (b f : Byte) : (s.setRegAndFlag x b f).mem = s.mem := rfl
@[simp] theorem setRegAndFlag_disp (x : Reg) (b f : Byte) : (s.setRegAndFlag x b f).disp = s.disp := rfl
@[simp] theorem setRegAndFlag_dt (x : Reg) (b f : Byte) : (s.setRegAndFlag x b f).dt = s.dt := rfl
@[simp] theorem setRegAndFlag_st (x : Reg) (b f : Byte) : (s.setRegAndFlag x b f).st = s.st := rfl
@[simp] theorem setRegAndFlag_keys (x : Reg) (b f : Byte) : (s.setRegAndFlag x b f).keys = s.keys := rfl
@[simp] theorem setRegAndFlag_waitReg (x : Reg) (b f : Byte) : (s.setRegAndFlag x b f).waitReg = s.waitReg := rfl
@[simp] theorem setRegAndFlag_relEvent (x : Reg) (b f : Byte) : (s.setRegAndFlag x b f).relEvent = s.relEvent := rfl
@[simp] theorem setRegAndFlag_fault (x : Reg) (b f : Byte) : (s.setRegAndFlag x b f).fault = s.fault := rfl
@[simp] theorem setRegAndFlag_cfg (x : Reg) (b f : Byte) : (s.setRegAndFlag x b f).cfg = s.cfg := rfl
@[simp] theorem setRegAndFlag_rnd (x : Reg) (b f : Byte) : (s.setRegAndFlag x b f).rnd = s.rnd := rfl
@[simp] theorem setRegAndFlag_draws (x : Reg) (b f : Byte) : (s.setRegAndFlag x b f).draws = s.draws := rfl
@[simp] theorem setRegAndFlag_driver (x : Reg) (b f : Byte) : (s.setRegAndFlag x b f).driver = s.driver := rfl

@[simp] theorem drawRandom_v : s.drawRandom.v = s.v := rfl
@[simp] theorem drawRandom_index : s.drawRandom.index = s.index := rfl
@[simp] theorem drawRandom_pc : s.drawRandom.pc = s.pc := rfl
@[simp] theorem drawRandom_stack : s.drawRandom.stack = s.stack := rfl
@[simp] theorem drawRandom_mem : s.drawRandom.mem = s.mem := rfl
@[simp] theorem drawRandom_disp : s.drawRandom.disp = s.disp := rfl
@[simp] theorem drawRandom_dt : s.drawRandom.dt = s.dt := rfl
@[simp] theorem drawRandom_st : s.drawRandom.st = s.st := rfl
@[simp] theorem drawRandom_keys : s.drawRandom.keys = s.keys := rfl
@[simp] theorem drawRandom_waitReg : s.drawRandom.waitReg = s.waitReg := rfl
@[simp] theorem drawRandom_relEvent : s.drawRandom.relEvent = s.relEvent := rfl
@[simp] theorem drawRandom_fault : s.drawRandom.fault = s.fault := rfl
@[simp] theorem drawRandom_cfg : s.drawRandom.cfg = s.cfg := rfl
@[simp] theorem drawRandom_driver : s.drawRandom.driver = s.driver := rfl
@[simp] theorem drawRandom_rnd : s.drawRandom.rnd = Config.randomByte s.draws := rfl
@[simp] theorem drawRandom_draws : s.drawRandom.draws = s.draws + 1 := rfl

@[simp] theorem withIndex_reg (a : Word) (x : Reg) : (s.withIndex a).reg x = s.reg x := rfl
@[simp] theorem withPc_reg (a : Word) (x : Reg) : (s.withPc a).reg x = s.reg x := rfl
@[simp] theorem withStack_reg (a : List Word) (x : Reg) : (s.withStack a).reg x = s.reg x := rfl
@[simp] theorem withMem_reg (a : Memory) (x : Reg) : (s.withMem a).reg x = s.reg x := rfl
@[simp] theorem withDisp_reg (a : Display) (x : Reg) : (s.withDisp a).reg x = s.reg x := rfl
@[simp] theorem withDt_reg (a : Timer) (x : Reg) : (s.withDt a).reg x = s.reg x := rfl
@[simp] theorem withSt_reg (a : Timer) (x : Reg) : (s.withSt a).reg x = s.reg x := rfl
@[simp] theorem withKeys_reg (a : Vector KeySlot 16) (x : Reg) : (s.withKeys a).reg x = s.reg x := rfl
@[simp] theorem withWaitReg_reg (a : Option Reg) (x : Reg) : (s.withWaitReg a).reg x = s.reg x := rfl
@[simp] theorem withRelEvent_reg (a : Option Key) (x : Reg) : (s.withRelEvent a).reg x = s.reg x := rfl
@[simp] theorem withFault_reg (a : Option Fault) (x : Reg) : (s.withFault a).reg x = s.reg x := rfl
@[simp] theorem withRnd_reg (a : Byte) (x : Reg) : (s.withRnd a).reg x = s.reg x := rfl
@[simp] theorem withDriver_reg (a : List DriverOp) (x : Reg) : (s.withDriver a).reg x = s.reg x := rfl
@[simp] theorem drawRandom_reg (x : Reg) : s.drawRandom.reg x = s.reg x := rfl

@[simp] theorem withV_byteAt (a : Vector Byte 16) (n : Nat) : (s.withV a).byteAt n = s.byteAt n := rfl
@[simp] theorem withIndex_byteAt (a : Word) (n : Nat) : (s.withIndex a).byteAt n = s.byteAt n := rfl
@[simp] theorem withPc_byteAt (a : Word) (n : Nat) : (s.withPc a).byteAt n = s.byteAt n := rfl
@[simp] theorem withStack_byteAt (a : List Word) (n : Nat) : (s.withStack a).byteAt n = s.byteAt n := rfl
@[simp] theorem withDisp_byteAt (a : Display) (n : Nat) : (s.withDisp a).byteAt n = s.byteAt n := rfl
@[simp] theorem withDt_byteAt (a : Timer) (n : Nat) : (s.withDt a).byteAt n = s.byteAt n := rfl
@[simp] theorem withSt_byteAt (a : Timer) (n : Nat) : (s.withSt a).byteAt n = s.byteAt n := rfl
@[simp] theorem withKeys_byteAt (a : Vector KeySlot 16) (n : Nat) : (s.withKeys a).byteAt n = s.byteAt n := rfl
@[simp] theorem withWaitReg_byteAt (a : Option Reg) (n : Nat) : (s.withWaitReg a).byteAt n = s.byteAt n := rfl
@[simp] theorem withRelEvent_byteAt (a : Option Key) (n : Nat) : (s.withRelEvent a).byteAt n = s.byteAt n := rfl
@[simp] theorem withFault_byteAt (a : Option Fault) (n : Nat) : (s.withFault a).byteAt n = s.byteAt n := rfl
@[simp] theorem withRnd_byteAt (a : Byte) (n : Nat) : (s.withRnd a).byteAt n = s.byteAt n := rfl
@[simp] theorem withDriver_byteAt (a : List DriverOp) (n : Nat) : (s.withDriver a).byteAt n = s.byteAt n := rfl
@[simp] theorem drawRandom_byteAt (n : Nat) : s.drawRandom.byteAt n = s.byteAt n := rfl
@[simp] theorem setReg_byteAt (x : Reg) (b : Byte) (n : Nat) : (s.setReg x b).byteAt n = s.byteAt n := rfl
@[simp] theorem setRegAndFlag_byteAt (x : Reg) (b f : Byte) (n : Nat) :
    (s.setRegAndFlag x b f).byteAt n = s.byteAt n := rfl
@[simp] theorem withMem_byteAt (a : Memory) (n : Nat) : (s.withMem a).byteAt n = a.read n := rfl

@[simp] theorem withV_key (a : Vector Byte 16) (k : Key) : (s.withV a).key k = s.key k := rfl
@[simp] theorem withIndex_key (a : Word) (k : Key) : (s.withIndex a).key k = s.key k := rfl
@[simp] theorem withPc_key (a : Word) (k : Key) : (s.withPc a).key k = s.key k := rfl
@[simp] theorem withStack_key (a : List Word) (k : Key) : (s.withStack a).key k = s.key k := rfl
@[simp] theorem withMem_key (a : Memory) (k : Key) : (s.withMem a).key k = s.key k := rfl
@[simp] theorem withDisp_key (a : Display) (k : Key) : (s.withDisp a).key k = s.key k := rfl
@[simp] theorem withDt_key (a : Timer) (k : Key) : (s.withDt a).key k = s.key k := rfl
@[simp] theorem withSt_key (a : Timer) (k : Key) : (s.withSt a).key k = s.key k := rfl
@[simp] theorem withWaitReg_key (a : Option Reg) (k : Key) : (s.withWaitReg a).key k = s.key k := rfl
@[simp] theorem withRelEvent_key (a : Option Key) (k : Key) : (s.withRelEvent a).key k = s.key k := rfl
@[simp] theorem withFault_key (a : Option Fault) (k : Key) : (s.withFault a).key k = s.key k := rfl
@[simp] theorem withRnd_key (a : Byte) (k : Key) : (s.withRnd a).key k = s.key k := rfl
@[simp] theorem withDriver_key (a : List DriverOp) (k : Key) : (s.withDriver a).key k = s.key k := rfl
@[simp] theorem setReg_key (x : Reg) (b : Byte) (k : Key) : (s.setReg x b).key k = s.key k := rfl
@[simp] theorem drawRandom_key (k : Key) : s.drawRandom.key k = s.key k := rfl

/-- A write to one key slot leaves every other slot alone. -/
@[simp] theorem key_withKeys_set (u : State) (k j : Key) (slot : KeySlot) :
    (u.withKeys (s.keys.set k slot)).key j = if j = k then slot else s.key j := by
  simp only [key, withKeys_keys, Fin.getElem_fin, Vector.getElem_set, Fin.ext_iff, eq_comm]

/-- A register write reads back in its register and leaves every other register alone. -/
@[simp] theorem reg_setReg (x y : Reg) (b : Byte) : (s.setReg x b).reg y = if y = x then b else s.reg y := by
  simp only [setReg, reg, withV_v, Fin.getElem_fin, Vector.getElem_set, Fin.ext_iff, eq_comm]

/-- The flag is the later write (R31). -/
@[simp] theorem reg_setRegAndFlag (x y : Reg) (b f : Byte) :
    (s.setRegAndFlag x b f).reg y = if y = vF then f else if y = x then b else s.reg y := by
  simp only [setRegAndFlag, reg_setReg]

/-- Loading bytes into the registers writes register `k` with byte `k`, if there is one. -/
@[simp] theorem reg_loaded (bytes : List Byte) (y : Reg) :
    (s.withV (loadedRegisters s.v bytes)).reg y = bytes.getD y.val (s.reg y) := by
  simp [loadedRegisters, reg]

/-- The registers a store stores: `X + 1` of them, register `k` at place `k`. -/
theorem firstRegisters_length (x : Reg) : (s.firstRegisters x).length = x.val + 1 := by
  simp only [firstRegisters, List.length_take, Vector.length_toList]; omega

theorem firstRegisters_getElem (x k : Reg) (h : k.val < (s.firstRegisters x).length) :
    (s.firstRegisters x)[k.val] = s.reg k := by
  simp [firstRegisters, reg]

end Sys2Proof.Machine.State
end

