-- ==== Sys2Proof/Laws/Ops.lean ====
section
/-! SUPPORT. The shared operations: what each answers, said once. -/

namespace Sys2Proof.Machine

/-! ## Completing, jumping, skipping, raising -/

theorem completes_eq (s : State) : completes s = .next (s.withPc (s.pc + 2)) := rfl

theorem jumpsTo_eq (target : Word) (s : State) : jumpsTo target s = .next (s.withPc target) := rfl

theorem raise_eq (f : Fault) (s : State) : raise f s = .next (s.withFault (some f)) := rfl

/-- A skip answers the state with `PC` moved by 4 or by 2 (R174). -/
theorem skipIf_eq (c : Bool) (s : State) :
    skipIf c s = .next (s.withPc (if c then s.pc + 2 + 2 else s.pc + 2)) := by
  cases c <;> rfl

@[simp] theorem orRaise_ok {α : Type} (a : α) (s : State) (go : α → Result) : orRaise (.ok a) s go = go a := rfl

@[simp] theorem orRaise_error {α : Type} (f : Fault) (s : State) (go : α → Result) :
    orRaise (.error f) s go = .next (s.withFault (some f)) := rfl

/-- A checked operation either goes on with its value or leaves only a fault recorded. -/
theorem orRaise_cases {α : Type} {r : Except Fault α} {s t : State} {go : α → Result} (h : orRaise r s go = .next t) :
    (∃ a, r = .ok a ∧ go a = .next t) ∨ (∃ f, r = .error f ∧ t = s.withFault (some f)) := by
  cases r with
  | ok a => exact .inl ⟨a, rfl, h⟩
  | error f => cases h; exact .inr ⟨f, rfl, rfl⟩

/-! ## The call stack -/

theorem State.push_ok {s : State} {v : Word} (h : stackFull s.cfg.stackDepth s.stack = false) :
    s.push v = .ok (s.stack ++ [v]) := by
  simp [State.push, h]

theorem State.push_error {s : State} {v : Word} (h : stackFull s.cfg.stackDepth s.stack = true) :
    s.push v = .error (.stackOverflow v) := by
  simp [State.push, h]

/-- The stack is full exactly when `STACK_DEPTH` is its number of entries (R37). -/
theorem stackFull_iff {d : StackDepth} {stack : List Word} : stackFull d stack = true ↔ d = .limit stack.length := by
  cases d with
  | unbounded => simp [stackFull]
  | limit n => simp [stackFull, eq_comm]

theorem State.pop_ok {s : State} {v : Word} {rest : List Word} (h : s.stack = rest ++ [v]) : s.pop = .ok (v, rest) := by
  simp [State.pop, h]

theorem State.pop_error {s : State} (h : s.stack = []) : s.pop = .error .stackUnderflow := by
  simp [State.pop, h]

/-- The two ways a pop ends. -/
theorem State.pop_cases (s : State) :
    (s.stack = [] ∧ s.pop = .error .stackUnderflow) ∨ ∃ v rest, s.stack = rest ++ [v] ∧ s.pop = .ok (v, rest) := by
  rcases List.eq_nil_or_concat' s.stack with h | ⟨rest, v, h⟩
  · exact .inl ⟨h, State.pop_error h⟩
  · exact .inr ⟨v, rest, h, State.pop_ok h⟩

/-! ## Key numbers -/

theorem State.keyOperand_ok {s : State} {x : Reg} (h : (s.reg x).toNat < 16) :
    s.keyOperand x = .ok ⟨(s.reg x).toNat, h⟩ := by
  simp [State.keyOperand, h]

theorem State.keyOperand_error {s : State} {x : Reg} (h : 16 ≤ (s.reg x).toNat) :
    s.keyOperand x = .error (.keyIndexOutOfRange (s.reg x)) := by
  simp [State.keyOperand]; omega

/-! ## Memory operands -/

theorem State.readOperand_ok {s : State} {n : Nat} (h : n = 0 ∨ s.index.toNat + n ≤ 4096) :
    s.readOperand n = .ok (s.mem.readBytes s.index.toNat n) := s.memRead_ok h

theorem State.readOperand_error {s : State} {n : Nat} (h : n ≠ 0 ∧ 4096 < s.index.toNat + n) :
    s.readOperand n = .error (.memoryOutOfRange (max s.index.toNat 4096)) := s.memRead_error h

theorem State.storeOperand_ok {s : State} {bytes : List Byte} (h : s.index.toNat + bytes.length ≤ 4096) :
    s.storeOperand bytes = .ok (s.mem.writeBytes s.index.toNat bytes) := s.memWrite_ok (.inr h)

theorem State.storeOperand_error {s : State} {bytes : List Byte}
    (h : bytes.length ≠ 0 ∧ 4096 < s.index.toNat + bytes.length) :
    s.storeOperand bytes = .error (.memoryOutOfRange (max s.index.toNat 4096)) := s.memWrite_error h

/-! ## Fetch -/

/-- The fetch of a word that exists (R153, R74). -/
theorem fetch_ok {s : State} (h : s.pc.toNat + 1 < 4096) :
    fetch s = .ok (wordOfBytes (s.byteAt s.pc.toNat) (s.byteAt (s.pc.toNat + 1))) := by
  rw [fetch, s.memRead_ok (.inr (show s.pc.toNat + 2 ≤ memSize from h))]; rfl

/-- The fetch of a word that does not (R153). -/
theorem fetch_error {s : State} (h : 4096 ≤ s.pc.toNat + 1) :
    fetch s = .error (.memoryOutOfRange (max s.pc.toNat 4096)) := by
  rw [fetch, s.memRead_error ⟨by omega, show memSize < s.pc.toNat + 2 by unfold memSize; omega⟩]; rfl

/-! ## What a step does -/

/-- The cases of a step, in the order of its checks (R152). -/
theorem stepBlock_cases {s t : State} (h : stepBlock s = .next t) :
    (∃ f, s.fault = some f ∧ t = s) ∨
    (s.fault = none ∧ ∃ x, s.waitReg = some x ∧ t = waitStep x s) ∨
    (s.fault = none ∧ s.waitReg = none ∧ ∃ f, fetchDecode s = .raises f ∧ t = s.withFault (some f)) ∨
    (s.fault = none ∧ s.waitReg = none ∧ ∃ i, fetchDecode s = .executes i ∧ exec i s = .next t) := by
  have hd : (∃ f, fetchDecode s = .raises f) ∨ ∃ i, fetchDecode s = .executes i := by
    unfold fetchDecode
    split
    · exact .inl ⟨_, rfl⟩
    · split
      · exact .inl ⟨_, rfl⟩
      · exact .inr ⟨_, rfl⟩
  unfold stepBlock activity at h
  cases hf : s.fault with
  | some f => simp only [hf] at h; cases h; exact .inl ⟨f, rfl, rfl⟩
  | none =>
    cases hw : s.waitReg with
    | some x => simp only [hf, hw] at h; cases h; exact .inr (.inl ⟨rfl, x, rfl, rfl⟩)
    | none =>
      rcases hd with ⟨f, hd⟩ | ⟨i, hd⟩
      · simp only [hf, hw, hd] at h; cases h; exact .inr (.inr (.inl ⟨rfl, rfl, f, hd, rfl⟩))
      · simp only [hf, hw, hd] at h; exact .inr (.inr (.inr ⟨rfl, rfl, i, hd, h⟩))

/-- An instruction is executed only from a fetched and decoded word at an address below 0xFFF. -/
theorem fetchDecode_executes {s : State} {i : Instr} (h : fetchDecode s = .executes i) :
    s.pc.toNat + 1 < 4096 ∧
      decode s.cfg.quirk (wordOfBytes (s.byteAt s.pc.toNat) (s.byteAt (s.pc.toNat + 1))) = .ok i := by
  by_cases hp : s.pc.toNat + 1 < 4096
  · refine ⟨hp, ?_⟩
    unfold fetchDecode at h
    rw [fetch_ok hp] at h
    dsimp only at h
    split at h
    · cases h
    · next hd => cases h; exact hd
  · unfold fetchDecode at h
    rw [fetch_error (by omega)] at h
    cases h

end Sys2Proof.Machine
end

