-- ==== Sys2Proof/Laws/Exec.lean ====
section
/-! SUPPORT. One equation per instruction: the whole answer of exec, in the shared operations. Proofs rewrite with these
and never unfold a meaning. -/

namespace Sys2Proof.Machine

variable (s : State)

theorem exec_call (nnn : Addr) :
    exec (.call nnn) s =
      orRaise (s.push (s.pc + 2)) s fun stack => .next ((s.withStack stack).withPc (zextAddr nnn)) := rfl

theorem exec_ret :
    exec .ret s =
      orRaise s.pop s fun popped => .next ((s.withStack popped.2).withPc popped.1) := rfl

theorem exec_jump (nnn : Addr) :
    exec (.jump nnn) s =
      .next (s.withPc (zextAddr nnn)) := rfl

theorem exec_jumpOffset (nnn : Addr) (register : Option Reg) :
    exec (.jumpOffset nnn register) s =
      .next (s.withPc (addIndex (zextAddr nnn) (s.jumpOffset register).toNat)) := rfl

theorem exec_skipEqualByte (x : Reg) (nn : Byte) :
    exec (.skipEqualByte x nn) s =
      skipIf (s.reg x == nn) s := rfl

theorem exec_skipNotEqualByte (x : Reg) (nn : Byte) :
    exec (.skipNotEqualByte x nn) s =
      skipIf (s.reg x != nn) s := rfl

theorem exec_skipEqualVariable (x y : Reg) :
    exec (.skipEqualVariable x y) s =
      skipIf (s.reg x == s.reg y) s := rfl

theorem exec_skipNotEqualVariable (x y : Reg) :
    exec (.skipNotEqualVariable x y) s =
      skipIf (s.reg x != s.reg y) s := rfl

theorem exec_skipKey (x : Reg) :
    exec (.skipKey x) s =
      orRaise (s.keyOperand x) s fun k => skipIf (s.key k == .pressed) s := rfl

theorem exec_skipNotKey (x : Reg) :
    exec (.skipNotKey x) s =
      orRaise (s.keyOperand x) s fun k => skipIf (s.key k != .pressed) s := rfl

theorem exec_setWithByte (x : Reg) (nn : Byte) :
    exec (.setWithByte x nn) s =
      .next ((s.setReg x nn).withPc (s.pc + 2)) := rfl

theorem exec_setWithVariable (x y : Reg) :
    exec (.setWithVariable x y) s =
      .next ((s.setReg x (s.reg y)).withPc (s.pc + 2)) := rfl

theorem exec_setIndexWithAddress (nnn : Addr) :
    exec (.setIndexWithAddress nnn) s =
      .next ((s.withIndex (zextAddr nnn)).withPc (s.pc + 2)) := rfl

theorem exec_setIndexWithSpriteAddress (x : Reg) :
    exec (.setIndexWithSpriteAddress x) s =
      .next ((s.withIndex (BitVec.ofNat 16 ((s.reg x).toNat * 5))).withPc (s.pc + 2)) := rfl

theorem exec_addWithByte (x : Reg) (nn : Byte) :
    exec (.addWithByte x nn) s =
      .next ((s.setReg x (addBytes (s.reg x) nn)).withPc (s.pc + 2)) := rfl

theorem exec_addWithVariable (x y : Reg) :
    exec (.addWithVariable x y) s =
      .next ((s.setRegAndFlag x (addBytes (s.reg x) (s.reg y)) (carryFlag (s.reg x) (s.reg y))).withPc (s.pc + 2)) := rfl

theorem exec_addIndexWithVariable (x : Reg) :
    exec (.addIndexWithVariable x) s =
      .next ((s.withIndex (addIndex s.index (s.reg x).toNat)).withPc (s.pc + 2)) := rfl

theorem exec_subWithVariable (x y : Reg) :
    exec (.subWithVariable x y) s =
      .next ((s.setRegAndFlag x (subBytes (s.reg x) (s.reg y)) (notBorrowFlag (s.reg x) (s.reg y))).withPc (s.pc + 2)) := rfl

theorem exec_subWithVariableNot (x y : Reg) :
    exec (.subWithVariableNot x y) s =
      .next ((s.setRegAndFlag x (subBytes (s.reg y) (s.reg x)) (notBorrowFlag (s.reg y) (s.reg x))).withPc (s.pc + 2)) := rfl

theorem exec_shiftRight (x : Reg) (y : Option Reg) :
    exec (.shiftRight x y) s =
      .next ((s.setRegAndFlag x (shiftRightByte (s.shiftSource x y)) (shiftRightFlag (s.shiftSource x y))).withPc (s.pc + 2)) := rfl

theorem exec_shiftLeft (x : Reg) (y : Option Reg) :
    exec (.shiftLeft x y) s =
      .next ((s.setRegAndFlag x (shiftLeftByte (s.shiftSource x y)) (shiftLeftFlag (s.shiftSource x y))).withPc (s.pc + 2)) := rfl

theorem exec_or (x y : Reg) :
    exec (.or x y) s =
      .next ((s.setReg x (s.reg x ||| s.reg y)).withPc (s.pc + 2)) := rfl

theorem exec_and (x y : Reg) :
    exec (.and x y) s =
      .next ((s.setReg x (s.reg x &&& s.reg y)).withPc (s.pc + 2)) := rfl

theorem exec_xor (x y : Reg) :
    exec (.xor x y) s =
      .next ((s.setReg x (s.reg x ^^^ s.reg y)).withPc (s.pc + 2)) := rfl

theorem exec_clearScreen :
    exec .clearScreen s =
      .next ((s.withDisp blankDisplay).withPc (s.pc + 2)) := rfl

theorem exec_draw (x y : Reg) (n : Nibble) :
    exec (.draw x y n) s =
      orRaise (s.readOperand n.toNat) s fun rows => .next ((drawSprite x y rows s).withPc (s.pc + 2)) := rfl

theorem exec_setVariableWithDelayTimer (x : Reg) :
    exec (.setVariableWithDelayTimer x) s =
      .next ((s.setReg x s.dt.value).withPc (s.pc + 2)) := rfl

theorem exec_setDelayTimer (x : Reg) :
    exec (.setDelayTimer x) s =
      .next ((s.withDt (s.dt.load s.cfg.timerWrite (s.reg x))).withPc (s.pc + 2)) := rfl

theorem exec_setSoundTimer (x : Reg) :
    exec (.setSoundTimer x) s =
      .next ((s.withSt (s.st.load s.cfg.timerWrite (s.reg x))).withPc (s.pc + 2)) := rfl

theorem exec_storeRegisters (x : Reg) :
    exec (.storeRegisters x) s =
      orRaise (s.storeOperand (s.firstRegisters x)) s fun m =>
        .next (((s.withMem m).withIndex (s.indexAfterTransfer x)).withPc (s.pc + 2)) := rfl

theorem exec_loadIntoRegisters (x : Reg) :
    exec (.loadIntoRegisters x) s =
      orRaise (s.readOperand (x.val + 1)) s fun bytes =>
        .next (((s.withV (loadedRegisters s.v bytes)).withIndex (s.indexAfterTransfer x)).withPc (s.pc + 2)) := rfl

theorem exec_storeDecimalConversion (x : Reg) :
    exec (.storeDecimalConversion x) s =
      orRaise (s.storeOperand (decimalDigits (s.reg x))) s fun m => .next ((s.withMem m).withPc (s.pc + 2)) := rfl

theorem exec_waitForKey (x : Reg) :
    exec (.waitForKey x) s =
      .next ((((s.withKeys (heldKeys s.keys)).withRelEvent none).withWaitReg (some x)).withPc (s.pc + 2)) := by
  simp [exec, execWaitForKey, completes_eq]

theorem exec_randomAnd (x : Reg) (nn : Byte) :
    exec (.randomAnd x nn) s =
      .next ((s.setReg x (s.rnd &&& nn)).withPc (s.pc + 2)) := rfl

theorem exec_machineRoutine (nnn : Addr) :
    exec (.machineRoutine nnn) s =
      .next (s.withPc (s.pc + 2)) := rfl

end Sys2Proof.Machine
end

