-- ==== Sys2Proof/Laws/Fields.lean ====
section
/-! SUPPORT. The opcode's fields and the formats of R102: reading a field of a packed word, packing the fields of a word,
and the masks of R112 as conditions on nibbles. -/

namespace Sys2Proof

/-! ## Words as numbers -/

theorem toNat_append {m n : Nat} (x : BitVec m) (y : BitVec n) : (x ++ y).toNat = x.toNat * 2 ^ n + y.toNat := by
  rw [BitVec.toNat_append, ← Nat.shiftLeft_add_eq_or_of_lt y.isLt, Nat.shiftLeft_eq]

theorem packNNN_toNat (a : Nibble) (nnn : Addr) : (packNNN a nnn).toNat = a.toNat * 4096 + nnn.toNat :=
  toNat_append a nnn

theorem packXNN_toNat (a : Nibble) (x : Reg) (nn : Byte) :
    (packXNN a x nn).toNat = a.toNat * 4096 + x.val * 256 + nn.toNat := by
  have h : (packXNN a x nn).toNat = ((a ++ regBits x) ++ nn).toNat := rfl
  have hx : (regBits x).toNat = x.val := rfl
  rw [h, toNat_append, toNat_append, hx]; omega

theorem packXYN_toNat (a : Nibble) (x y : Reg) (n : Nibble) :
    (packXYN a x y n).toNat = a.toNat * 4096 + x.val * 256 + y.val * 16 + n.toNat := by
  have h : (packXYN a x y n).toNat = (((a ++ regBits x) ++ regBits y) ++ n).toNat := rfl
  have hx : (regBits x).toNat = x.val := rfl
  have hy : (regBits y).toNat = y.val := rfl
  rw [h, toNat_append, toNat_append, toNat_append, hx, hy]; omega

theorem opA_toNat (op : Word) : (opA op).toNat = op.toNat / 4096 := by
  have := op.isLt
  simp [opA, BitVec.extractLsb'_toNat, Nat.shiftRight_eq_div_pow]; omega

theorem opB_toNat (op : Word) : (opB op).toNat = op.toNat / 256 % 16 := by
  simp [opB, BitVec.extractLsb'_toNat, Nat.shiftRight_eq_div_pow]

theorem opC_toNat (op : Word) : (opC op).toNat = op.toNat / 16 % 16 := by
  simp [opC, BitVec.extractLsb'_toNat, Nat.shiftRight_eq_div_pow]

theorem opD_toNat (op : Word) : (opD op).toNat = op.toNat % 16 := by
  simp [opD, BitVec.extractLsb'_toNat]

theorem opNN_toNat (op : Word) : (opNN op).toNat = op.toNat % 256 := by
  simp [opNN, BitVec.extractLsb'_toNat]

theorem opNNN_toNat (op : Word) : (opNNN op).toNat = op.toNat % 4096 := by
  simp [opNNN, BitVec.extractLsb'_toNat]

theorem opX_val (op : Word) : (opX op).val = op.toNat / 256 % 16 := opB_toNat op

theorem opY_val (op : Word) : (opY op).val = op.toNat / 16 % 16 := opC_toNat op

/-! ## Fields of packed words -/

@[simp] theorem opA_packNNN (a : Nibble) (nnn : Addr) : opA (packNNN a nnn) = a := by
  apply BitVec.eq_of_toNat_eq; have := nnn.isLt; rw [opA_toNat, packNNN_toNat]; omega

@[simp] theorem opNNN_packNNN (a : Nibble) (nnn : Addr) : opNNN (packNNN a nnn) = nnn := by
  apply BitVec.eq_of_toNat_eq; have := nnn.isLt; rw [opNNN_toNat, packNNN_toNat]; omega

@[simp] theorem opX_packNNN (a : Nibble) (nnn : Addr) : opX (packNNN a nnn) = (nnn.extractLsb' 8 4).toFin := by
  apply Fin.ext; have := nnn.isLt; rw [opX_val, packNNN_toNat]
  show _ = (nnn.extractLsb' 8 4).toNat
  rw [BitVec.extractLsb'_toNat, Nat.shiftRight_eq_div_pow]; omega

@[simp] theorem opA_packXNN (a : Nibble) (x : Reg) (nn : Byte) : opA (packXNN a x nn) = a := by
  apply BitVec.eq_of_toNat_eq; have := nn.isLt; rw [opA_toNat, packXNN_toNat]; omega

@[simp] theorem opX_packXNN (a : Nibble) (x : Reg) (nn : Byte) : opX (packXNN a x nn) = x := by
  apply Fin.ext; have := nn.isLt; rw [opX_val, packXNN_toNat]; omega

@[simp] theorem opNN_packXNN (a : Nibble) (x : Reg) (nn : Byte) : opNN (packXNN a x nn) = nn := by
  apply BitVec.eq_of_toNat_eq; have := nn.isLt; rw [opNN_toNat, packXNN_toNat]; omega

@[simp] theorem opA_packXYN (a : Nibble) (x y : Reg) (n : Nibble) : opA (packXYN a x y n) = a := by
  apply BitVec.eq_of_toNat_eq; have := n.isLt; rw [opA_toNat, packXYN_toNat]; omega

@[simp] theorem opX_packXYN (a : Nibble) (x y : Reg) (n : Nibble) : opX (packXYN a x y n) = x := by
  apply Fin.ext; have := n.isLt; rw [opX_val, packXYN_toNat]; omega

@[simp] theorem opY_packXYN (a : Nibble) (x y : Reg) (n : Nibble) : opY (packXYN a x y n) = y := by
  apply Fin.ext; have := n.isLt; rw [opY_val, packXYN_toNat]; omega

@[simp] theorem opD_packXYN (a : Nibble) (x y : Reg) (n : Nibble) : opD (packXYN a x y n) = n := by
  apply BitVec.eq_of_toNat_eq; have := n.isLt; rw [opD_toNat, packXYN_toNat]; omega

/-! ## A word is its packed fields -/

theorem packNNN_fields (op : Word) : packNNN (opA op) (opNNN op) = op := by
  apply BitVec.eq_of_toNat_eq; rw [packNNN_toNat, opA_toNat, opNNN_toNat]; omega

theorem packXNN_fields (op : Word) : packXNN (opA op) (opX op) (opNN op) = op := by
  apply BitVec.eq_of_toNat_eq; rw [packXNN_toNat, opA_toNat, opX_val, opNN_toNat]; omega

theorem packXYN_fields (op : Word) : packXYN (opA op) (opX op) (opY op) (opD op) = op := by
  apply BitVec.eq_of_toNat_eq; rw [packXYN_toNat, opA_toNat, opX_val, opY_val, opD_toNat]; omega

/-! ## The masks of R112 -/

theorem and_append {m n : Nat} (x x' : BitVec m) (y y' : BitVec n) : (x ++ y) &&& (x' ++ y') = (x &&& x') ++ (y &&& y') := by
  ext i hi
  simp only [BitVec.getElem_and, BitVec.getElem_append]
  split <;> rfl

theorem packXYN_and (a a' : Nibble) (x x' y y' : Reg) (n n' : Nibble) :
    packXYN a x y n &&& packXYN a' x' y' n' =
      packXYN (a &&& a') (regBits x &&& regBits x').toFin (regBits y &&& regBits y').toFin (n &&& n') := by
  have h : packXYN a x y n &&& packXYN a' x' y' n' =
      (((a ++ regBits x) ++ regBits y) ++ n) &&& (((a' ++ regBits x') ++ regBits y') ++ n') := rfl
  rw [h, and_append, and_append, and_append]; rfl

theorem and_ones (a : Nibble) : a &&& 0xF = a := by
  revert a; decide

theorem and_zero (a : Nibble) : a &&& 0x0 = 0x0 := by
  revert a; decide

theorem regBits_and_zero (x : Reg) : (regBits x &&& regBits 0).toFin = 0 := by
  revert x; decide

theorem regBits_and_ones (x : Reg) : (regBits x &&& regBits 15).toFin = x := by
  revert x; decide

/-- A word under a mask of whole nibbles. -/
theorem mask_F000 (op : Word) : op &&& 0xF000 = packXYN (opA op) 0 0 0 := by
  conv_lhs => rw [← packXYN_fields op]
  refine (packXYN_and (opA op) 0xF (opX op) 0 (opY op) 0 (opD op) 0).trans ?_
  rw [and_ones, and_zero, regBits_and_zero, regBits_and_zero]

theorem mask_F00F (op : Word) : op &&& 0xF00F = packXYN (opA op) 0 0 (opD op) := by
  conv_lhs => rw [← packXYN_fields op]
  refine (packXYN_and (opA op) 0xF (opX op) 0 (opY op) 0 (opD op) 0xF).trans ?_
  rw [and_ones, and_ones, regBits_and_zero, regBits_and_zero]

theorem mask_F0FF (op : Word) : op &&& 0xF0FF = packXNN (opA op) 0 (opNN op) := by
  conv_lhs => rw [← packXYN_fields op]
  refine (packXYN_and (opA op) 0xF (opX op) 0 (opY op) 15 (opD op) 0xF).trans ?_
  rw [and_ones, and_ones, regBits_and_zero, regBits_and_ones]
  apply BitVec.eq_of_toNat_eq
  rw [packXYN_toNat, packXNN_toNat, opY_val, opD_toNat, opNN_toNat]; omega

/-- A match under `0xF000` fixes the group (R112). -/
theorem opA_of_mask {op : Word} {a : Nibble} (h : op &&& 0xF000 = packXYN a 0 0 0) : opA op = a := by
  rw [mask_F000] at h; simpa using congrArg opA h

/-- A match under `0xF00F` fixes the group and the function nibble (R112). -/
theorem opAD_of_mask {op : Word} {a d : Nibble} (h : op &&& 0xF00F = packXYN a 0 0 d) : opA op = a ∧ opD op = d := by
  rw [mask_F00F] at h; exact ⟨by simpa using congrArg opA h, by simpa using congrArg opD h⟩

/-- A match under `0xF0FF` fixes the group and the function byte (R112). -/
theorem opANN_of_mask {op : Word} {a : Nibble} {nn : Byte} (h : op &&& 0xF0FF = packXNN a 0 nn) :
    opA op = a ∧ opNN op = nn := by
  rw [mask_F0FF] at h; exact ⟨by simpa using congrArg opA h, by simpa using congrArg opNN h⟩

end Sys2Proof
end

