-- ==== Sys2Proof/Laws/PerInstr.lean ====
section
/-! SUPPORT. Statements for all instructions, one lemma per constructor. -/

namespace Sys2Proof.Laws

/-- The mask of the instruction's row of R112. -/
def rowMask : Instr → Word
  | .call _ => 0xF000
  | .ret => 0xFFFF
  | .jump _ => 0xF000
  | .jumpOffset _ _ => 0xF000
  | .skipEqualByte _ _ => 0xF000
  | .skipNotEqualByte _ _ => 0xF000
  | .skipEqualVariable _ _ => 0xF00F
  | .skipNotEqualVariable _ _ => 0xF00F
  | .skipKey _ => 0xF0FF
  | .skipNotKey _ => 0xF0FF
  | .setWithByte _ _ => 0xF000
  | .setWithVariable _ _ => 0xF00F
  | .setIndexWithAddress _ => 0xF000
  | .setIndexWithSpriteAddress _ => 0xF0FF
  | .addWithByte _ _ => 0xF000
  | .addWithVariable _ _ => 0xF00F
  | .addIndexWithVariable _ => 0xF0FF
  | .subWithVariable _ _ => 0xF00F
  | .subWithVariableNot _ _ => 0xF00F
  | .shiftRight _ _ => 0xF00F
  | .shiftLeft _ _ => 0xF00F
  | .or _ _ => 0xF00F
  | .and _ _ => 0xF00F
  | .xor _ _ => 0xF00F
  | .clearScreen => 0xFFFF
  | .draw _ _ _ => 0xF000
  | .setVariableWithDelayTimer _ => 0xF0FF
  | .setDelayTimer _ => 0xF0FF
  | .setSoundTimer _ => 0xF0FF
  | .storeRegisters _ => 0xF0FF
  | .loadIntoRegisters _ => 0xF0FF
  | .storeDecimalConversion _ => 0xF0FF
  | .waitForKey _ => 0xF0FF
  | .randomAnd _ _ => 0xF000
  | .machineRoutine _ => 0xF000

/-- The match of the instruction's row of R112. -/
def rowMatch : Instr → Word
  | .call _ => 0x2000
  | .ret => 0x00EE
  | .jump _ => 0x1000
  | .jumpOffset _ _ => 0xB000
  | .skipEqualByte _ _ => 0x3000
  | .skipNotEqualByte _ _ => 0x4000
  | .skipEqualVariable _ _ => 0x5000
  | .skipNotEqualVariable _ _ => 0x9000
  | .skipKey _ => 0xE09E
  | .skipNotKey _ => 0xE0A1
  | .setWithByte _ _ => 0x6000
  | .setWithVariable _ _ => 0x8000
  | .setIndexWithAddress _ => 0xA000
  | .setIndexWithSpriteAddress _ => 0xF029
  | .addWithByte _ _ => 0x7000
  | .addWithVariable _ _ => 0x8004
  | .addIndexWithVariable _ => 0xF01E
  | .subWithVariable _ _ => 0x8005
  | .subWithVariableNot _ _ => 0x8007
  | .shiftRight _ _ => 0x8006
  | .shiftLeft _ _ => 0x800E
  | .or _ _ => 0x8001
  | .and _ _ => 0x8002
  | .xor _ _ => 0x8003
  | .clearScreen => 0x00E0
  | .draw _ _ _ => 0xD000
  | .setVariableWithDelayTimer _ => 0xF007
  | .setDelayTimer _ => 0xF015
  | .setSoundTimer _ => 0xF018
  | .storeRegisters _ => 0xF055
  | .loadIntoRegisters _ => 0xF065
  | .storeDecimalConversion _ => 0xF033
  | .waitForKey _ => 0xF00A
  | .randomAnd _ _ => 0xC000
  | .machineRoutine _ => 0x0000

namespace MatchesItsRow

/-- The encoder's word meets the mask and match of the instruction's row of R112. -/
def Statement (i : Instr) : Prop := encode i &&& rowMask i = rowMatch i

theorem call (nnn : Addr) : Statement (.call nnn) :=
  (mask_F000 _).trans (by rw [encode, opA_packNNN]; rfl)
theorem ret : Statement .ret := rfl
theorem jump (nnn : Addr) : Statement (.jump nnn) :=
  (mask_F000 _).trans (by rw [encode, opA_packNNN]; rfl)
theorem jumpOffset (nnn : Addr) (register : Option Reg) : Statement (.jumpOffset nnn register) :=
  (mask_F000 _).trans (by rw [encode, opA_packNNN]; rfl)
theorem skipEqualByte (x : Reg) (nn : Byte) : Statement (.skipEqualByte x nn) :=
  (mask_F000 _).trans (by rw [encode, opA_packXNN]; rfl)
theorem skipNotEqualByte (x : Reg) (nn : Byte) : Statement (.skipNotEqualByte x nn) :=
  (mask_F000 _).trans (by rw [encode, opA_packXNN]; rfl)
theorem skipEqualVariable (x y : Reg) : Statement (.skipEqualVariable x y) :=
  (mask_F00F _).trans (by rw [encode, opA_packXYN, opD_packXYN]; rfl)
theorem skipNotEqualVariable (x y : Reg) : Statement (.skipNotEqualVariable x y) :=
  (mask_F00F _).trans (by rw [encode, opA_packXYN, opD_packXYN]; rfl)
theorem skipKey (x : Reg) : Statement (.skipKey x) :=
  (mask_F0FF _).trans (by rw [encode, opA_packXNN, opNN_packXNN]; rfl)
theorem skipNotKey (x : Reg) : Statement (.skipNotKey x) :=
  (mask_F0FF _).trans (by rw [encode, opA_packXNN, opNN_packXNN]; rfl)
theorem setWithByte (x : Reg) (nn : Byte) : Statement (.setWithByte x nn) :=
  (mask_F000 _).trans (by rw [encode, opA_packXNN]; rfl)
theorem setWithVariable (x y : Reg) : Statement (.setWithVariable x y) :=
  (mask_F00F _).trans (by rw [encode, opA_packXYN, opD_packXYN]; rfl)
theorem setIndexWithAddress (nnn : Addr) : Statement (.setIndexWithAddress nnn) :=
  (mask_F000 _).trans (by rw [encode, opA_packNNN]; rfl)
theorem setIndexWithSpriteAddress (x : Reg) : Statement (.setIndexWithSpriteAddress x) :=
  (mask_F0FF _).trans (by rw [encode, opA_packXNN, opNN_packXNN]; rfl)
theorem addWithByte (x : Reg) (nn : Byte) : Statement (.addWithByte x nn) :=
  (mask_F000 _).trans (by rw [encode, opA_packXNN]; rfl)
theorem addWithVariable (x y : Reg) : Statement (.addWithVariable x y) :=
  (mask_F00F _).trans (by rw [encode, opA_packXYN, opD_packXYN]; rfl)
theorem addIndexWithVariable (x : Reg) : Statement (.addIndexWithVariable x) :=
  (mask_F0FF _).trans (by rw [encode, opA_packXNN, opNN_packXNN]; rfl)
theorem subWithVariable (x y : Reg) : Statement (.subWithVariable x y) :=
  (mask_F00F _).trans (by rw [encode, opA_packXYN, opD_packXYN]; rfl)
theorem subWithVariableNot (x y : Reg) : Statement (.subWithVariableNot x y) :=
  (mask_F00F _).trans (by rw [encode, opA_packXYN, opD_packXYN]; rfl)
theorem shiftRight (x : Reg) (y : Option Reg) : Statement (.shiftRight x y) :=
  (mask_F00F _).trans (by rw [encode, opA_packXYN, opD_packXYN]; rfl)
theorem shiftLeft (x : Reg) (y : Option Reg) : Statement (.shiftLeft x y) :=
  (mask_F00F _).trans (by rw [encode, opA_packXYN, opD_packXYN]; rfl)
theorem or (x y : Reg) : Statement (.or x y) := (mask_F00F _).trans (by rw [encode, opA_packXYN, opD_packXYN]; rfl)
theorem and (x y : Reg) : Statement (.and x y) := (mask_F00F _).trans (by rw [encode, opA_packXYN, opD_packXYN]; rfl)
theorem xor (x y : Reg) : Statement (.xor x y) := (mask_F00F _).trans (by rw [encode, opA_packXYN, opD_packXYN]; rfl)
theorem clearScreen : Statement .clearScreen := rfl
theorem draw (x y : Reg) (n : Nibble) : Statement (.draw x y n) :=
  (mask_F000 _).trans (by rw [encode, opA_packXYN]; rfl)
theorem setVariableWithDelayTimer (x : Reg) : Statement (.setVariableWithDelayTimer x) :=
  (mask_F0FF _).trans (by rw [encode, opA_packXNN, opNN_packXNN]; rfl)
theorem setDelayTimer (x : Reg) : Statement (.setDelayTimer x) :=
  (mask_F0FF _).trans (by rw [encode, opA_packXNN, opNN_packXNN]; rfl)
theorem setSoundTimer (x : Reg) : Statement (.setSoundTimer x) :=
  (mask_F0FF _).trans (by rw [encode, opA_packXNN, opNN_packXNN]; rfl)
theorem storeRegisters (x : Reg) : Statement (.storeRegisters x) :=
  (mask_F0FF _).trans (by rw [encode, opA_packXNN, opNN_packXNN]; rfl)
theorem loadIntoRegisters (x : Reg) : Statement (.loadIntoRegisters x) :=
  (mask_F0FF _).trans (by rw [encode, opA_packXNN, opNN_packXNN]; rfl)
theorem storeDecimalConversion (x : Reg) : Statement (.storeDecimalConversion x) :=
  (mask_F0FF _).trans (by rw [encode, opA_packXNN, opNN_packXNN]; rfl)
theorem waitForKey (x : Reg) : Statement (.waitForKey x) :=
  (mask_F0FF _).trans (by rw [encode, opA_packXNN, opNN_packXNN]; rfl)
theorem randomAnd (x : Reg) (nn : Byte) : Statement (.randomAnd x nn) :=
  (mask_F000 _).trans (by rw [encode, opA_packXNN]; rfl)
theorem machineRoutine (nnn : Addr) : Statement (.machineRoutine nnn) :=
  (mask_F000 _).trans (by rw [encode, opA_packNNN]; rfl)

end MatchesItsRow

end Sys2Proof.Laws
end

