-- ==== Sys2Proof/Laws/Screen.lean ====
section
/-! SUPPORT. The display: a blank screen, and what the drawing loops make of one row and of the screen. -/

namespace Sys2Proof.Machine

@[simp] theorem pixel_blank (x y : Nat) : Display.pixel blankDisplay x y = false := by
  unfold Display.pixel blankDisplay
  split <;> simp

theorem pixel_eq (d : Display) {x y : Nat} (hy : y < 32) (hx : x < 64) : Display.pixel d x y = (d[y])[x] := by
  simp [Display.pixel, hx, hy]

/-- Two screens with the same pixels are the same. -/
theorem display_ext {d e : Display} (h : ∀ x y, d.pixel x y = e.pixel x y) : d = e := by
  apply Vector.ext; intro y hy
  apply Vector.ext; intro x hx
  simpa [Display.pixel, hx, hy] using h x y

/-- Replacing a row changes that row only. -/
theorem pixel_setRow (d : Display) (row : Vector Bool 64) {y : Nat} (hy : y < 32) (x' y' : Nat) :
    Display.pixel (d.set y row) x' y' = if h : y' = y ∧ x' < 64 then row[x']'h.2 else d.pixel x' y' := by
  unfold Display.pixel
  by_cases hb : y' < 32 ∧ x' < 64
  · by_cases he : y' = y
    · subst he; simp [hb]
    · simp [hb, he, Ne.symm he]
  · rw [dif_neg hb, dif_neg (by omega)]; rw [dif_neg hb]

/-- A pixel of one row; no pixel outside the row is on. -/
def rowPixel (row : Vector Bool 64) (x : Nat) : Bool := if h : x < 64 then row[x] else false

theorem rowPixel_set (row : Vector Bool 64) {x : Nat} (h : x < 64) (b : Bool) (x' : Nat) :
    rowPixel (row.set x b) x' = if x' = x then b else rowPixel row x' := by
  unfold rowPixel
  by_cases hx : x' < 64
  · by_cases he : x' = x
    · subst he; simp [hx]
    · simp [hx, he, Ne.symm he]
  · rw [dif_neg hx, dif_neg hx, if_neg (by omega)]

/-- The row loop over rising bit numbers toggles exactly the pixels of the row that a 1-bit falls on (R241, R242). -/
theorem drawBits_pixel (byte : Byte) (x0 : Nat) (js : List Nat) (hs : js.Pairwise (· < ·)) (row : Vector Bool 64)
    (hit : Bool) (x' : Nat) :
    rowPixel (drawBits byte x0 js (row, hit)).1 x' =
      (rowPixel row x' ^^ decide (x' < 64 ∧ ∃ j ∈ js, x0 + j = x' ∧ byte.getLsbD (7 - j) = true)) := by
  induction js generalizing row hit with
  | nil => simp [drawBits]
  | cons j js ih =>
    obtain ⟨hj, hs⟩ := List.pairwise_cons.mp hs
    unfold drawBits
    by_cases h : x0 + j < 64
    · rw [dif_pos h]
      by_cases hb : byte.getLsbD (7 - j) = true
      · rw [if_pos hb, ih hs, rowPixel_set row h]
        by_cases he : x' = x0 + j
        · subst he
          have h1 : ¬∃ k ∈ js, x0 + k = x0 + j ∧ byte.getLsbD (7 - k) = true := by
            rintro ⟨k, hk, hk', -⟩; have := hj k hk; omega
          have h2 : ∃ k ∈ j :: js, x0 + k = x0 + j ∧ byte.getLsbD (7 - k) = true := ⟨j, by simp, rfl, hb⟩
          rw [if_pos rfl, decide_eq_false (fun c => h1 c.2), decide_eq_true ⟨h, h2⟩]
          simp [rowPixel, h]
        · rw [if_neg he]
          congr 2
          rw [List.exists_mem_cons_iff]
          simp [Ne.symm he]
      · rw [if_neg hb, ih hs]
        congr 2
        rw [List.exists_mem_cons_iff]
        simp [hb]
    · rw [dif_neg h]
      have h1 : ¬(x' < 64 ∧ ∃ k ∈ j :: js, x0 + k = x' ∧ byte.getLsbD (7 - k) = true) := by
        rintro ⟨hx, k, hk, hk', -⟩
        rcases List.mem_cons.mp hk with rfl | hk
        · omega
        · have := hj k hk; omega
      rw [decide_eq_false h1, Bool.xor_false]

/-- The row loop records a collision exactly when a 1-bit falls on a pixel of the row that was on (R244). -/
theorem drawBits_hit (byte : Byte) (x0 : Nat) (js : List Nat) (hs : js.Pairwise (· < ·)) (row : Vector Bool 64)
    (hit : Bool) :
    (drawBits byte x0 js (row, hit)).2 = true ↔
      hit = true ∨ ∃ j ∈ js, byte.getLsbD (7 - j) = true ∧ rowPixel row (x0 + j) = true := by
  induction js generalizing row hit with
  | nil => simp [drawBits]
  | cons j js ih =>
    obtain ⟨hj, hs⟩ := List.pairwise_cons.mp hs
    unfold drawBits
    by_cases h : x0 + j < 64
    · rw [dif_pos h]
      by_cases hb : byte.getLsbD (7 - j) = true
      · rw [if_pos hb, ih hs, List.exists_mem_cons_iff]
        have h1 : (∃ k ∈ js, byte.getLsbD (7 - k) = true ∧
              rowPixel (row.set (x0 + j) (!row[x0 + j])) (x0 + k) = true) ↔
            ∃ k ∈ js, byte.getLsbD (7 - k) = true ∧ rowPixel row (x0 + k) = true := by
          refine exists_congr fun k => and_congr_right fun hk => and_congr_right fun _ => ?_
          have := hj k hk
          rw [rowPixel_set row h, if_neg (by omega)]
        rw [h1, Bool.or_eq_true, or_assoc]
        simp [hb, rowPixel, h]
      · rw [if_neg hb, ih hs, List.exists_mem_cons_iff]
        simp [hb]
    · rw [dif_neg h, List.exists_mem_cons_iff]
      refine ⟨.inl, ?_⟩
      rintro (hh | ⟨-, hp⟩ | ⟨k, hk, -, hp⟩)
      · exact hh
      · simp [rowPixel, h] at hp
      · have := hj k hk
        simp [rowPixel, show ¬ x0 + k < 64 by omega] at hp

/-- Sprite rows drawn from row `y0` and column `x0` have a 1-bit falling on the pixel at column `x`, row `y` of the
screen. -/
def SpriteCovers (rows : List Byte) (x0 y0 x y : Nat) : Prop :=
  x < 64 ∧ y < 32 ∧ y0 ≤ y ∧ x0 ≤ x ∧ x - x0 < 8 ∧
    ∃ h : y - y0 < rows.length, rows[y - y0].getLsbD (7 - (x - x0)) = true

theorem spriteCovers_cons (b : Byte) (bs : List Byte) (x0 y0 x y : Nat) :
    SpriteCovers (b :: bs) x0 y0 x y ↔
      (x < 64 ∧ y < 32 ∧ y = y0 ∧ x0 ≤ x ∧ x - x0 < 8 ∧ b.getLsbD (7 - (x - x0)) = true) ∨
        SpriteCovers bs x0 (y0 + 1) x y := by
  unfold SpriteCovers
  by_cases hy : y = y0
  · subst hy; simp
  · by_cases hlt : y < y0
    · simp [hy]; omega
    · have e : y - y0 = (y - (y0 + 1)) + 1 := by omega
      have e2 : y0 ≤ y ↔ y0 + 1 ≤ y := by omega
      simp only [e, List.length_cons, List.getElem_cons_succ, Nat.add_lt_add_iff_right, hy, e2, false_and, and_false,
        false_or]

theorem pixel_row (d : Display) {y : Nat} (hy : y < 32) (x : Nat) : d.pixel x y = rowPixel d[y] x := by
  unfold Display.pixel rowPixel
  by_cases hx : x < 64
  · rw [dif_pos ⟨hy, hx⟩, dif_pos hx]
  · rw [dif_neg (by omega), dif_neg hx]

theorem pixel_set_row (d : Display) (row : Vector Bool 64) {y : Nat} (hy : y < 32) (x' y' : Nat) :
    Display.pixel (d.set y row) x' y' = if y' = y then rowPixel row x' else d.pixel x' y' := by
  by_cases he : y' = y
  · subst he; rw [if_pos rfl, pixel_row _ hy]; simp
  · rw [if_neg he]
    unfold Display.pixel
    by_cases hb : y' < 32 ∧ x' < 64
    · rw [dif_pos hb, dif_pos hb]; simp [Ne.symm he]
    · rw [dif_neg hb, dif_neg hb]

theorem range8_rising : (List.range 8).Pairwise (· < ·) := by decide

/-- The drawing loop toggles exactly the pixels the sprite covers, once each (R241, R242). -/
theorem drawRows_pixel (x0 : Nat) (rows : List Byte) (y0 : Nat) (d : Display) (hit : Bool) (x y : Nat) :
    Display.pixel (drawRows x0 rows y0 (d, hit)).1 x y = true ↔
      ¬ (d.pixel x y = true ↔ SpriteCovers rows x0 y0 x y) := by
  induction rows generalizing y0 d hit with
  | nil => simp [drawRows, SpriteCovers]
  | cons b bs ih =>
    unfold drawRows
    by_cases h : y0 < 32
    · rw [dif_pos h, ih, pixel_set_row _ _ h, spriteCovers_cons]
      by_cases he : y = y0
      · subst he
        have h0 : ¬ SpriteCovers bs x0 (y + 1) x y := by unfold SpriteCovers; omega
        have hc : (x < 64 ∧ ∃ j ∈ List.range 8, x0 + j = x ∧ b.getLsbD (7 - j) = true) ↔
            (x < 64 ∧ y < 32 ∧ y = y ∧ x0 ≤ x ∧ x - x0 < 8 ∧ b.getLsbD (7 - (x - x0)) = true) := by
          constructor
          · rintro ⟨hx, j, hj, rfl, hb⟩
            rw [List.mem_range] at hj
            refine ⟨hx, h, rfl, by omega, by omega, ?_⟩
            rwa [show x0 + j - x0 = j by omega]
          · rintro ⟨hx, -, -, hle, h8, hb⟩
            exact ⟨hx, x - x0, by rw [List.mem_range]; exact h8, by omega, hb⟩
        rw [if_pos rfl, drawBits_pixel _ _ _ range8_rising, ← pixel_row d h]
        simp only [hc]
        by_cases hp : d.pixel x y = true <;>
          by_cases hq : (x < 64 ∧ y < 32 ∧ y = y ∧ x0 ≤ x ∧ x - x0 < 8 ∧ b.getLsbD (7 - (x - x0)) = true) <;>
          simp [hp, hq, h0]
      · rw [if_neg he]
        have : ¬ (x < 64 ∧ y < 32 ∧ y = y0 ∧ x0 ≤ x ∧ x - x0 < 8 ∧ b.getLsbD (7 - (x - x0)) = true) := fun c => he c.2.2.1
        simp [this]
    · rw [dif_neg h]
      have : ¬ SpriteCovers (b :: bs) x0 y0 x y := by unfold SpriteCovers; omega
      simp [this]

/-- The drawing loop records a collision exactly when the sprite covers a pixel that was on (R244). -/
theorem drawRows_hit (x0 : Nat) (rows : List Byte) (y0 : Nat) (d : Display) (hit : Bool) :
    (drawRows x0 rows y0 (d, hit)).2 = true ↔
      hit = true ∨ ∃ x y, SpriteCovers rows x0 y0 x y ∧ d.pixel x y = true := by
  induction rows generalizing y0 d hit with
  | nil => simp [drawRows, SpriteCovers]
  | cons b bs ih =>
    unfold drawRows
    by_cases h : y0 < 32
    · rw [dif_pos h, ih, drawBits_hit _ _ _ range8_rising, or_assoc]
      refine or_congr_right ⟨?_, ?_⟩
      · rintro (⟨j, hj, hb, hp⟩ | ⟨x, y, hc, hp⟩)
        · rw [List.mem_range] at hj
          have hx : x0 + j < 64 := by
            by_contra hn; simp [rowPixel, hn] at hp
          refine ⟨x0 + j, y0, ?_, by rwa [pixel_row d h]⟩
          rw [spriteCovers_cons]
          refine .inl ⟨hx, h, rfl, by omega, by omega, ?_⟩
          rwa [show x0 + j - x0 = j by omega]
        · have hy : y ≠ y0 := by have := hc.2.2.1; omega
          rw [pixel_set_row _ _ h, if_neg hy] at hp
          exact ⟨x, y, (spriteCovers_cons ..).mpr (.inr hc), hp⟩
      · rintro ⟨x, y, hc, hp⟩
        rcases (spriteCovers_cons ..).mp hc with ⟨hx, -, rfl, hle, h8, hb⟩ | hc'
        · refine .inl ⟨x - x0, by rw [List.mem_range]; exact h8, hb, ?_⟩
          rw [show x0 + (x - x0) = x by omega, ← pixel_row d h]; exact hp
        · have hy : y ≠ y0 := by have := hc'.2.2.1; omega
          exact .inr ⟨x, y, hc', by rw [pixel_set_row _ _ h, if_neg hy]; exact hp⟩
    · rw [dif_neg h]
      refine ⟨.inl, ?_⟩
      rintro (hh | ⟨x, y, hc, -⟩)
      · exact hh
      · unfold SpriteCovers at hc; omega

end Sys2Proof.Machine
end

