-- ==== Sys2Proof/Tests/Slice0.lean ====
section
/-! SUPPORT. Tests. Expected results come from R112 (words) and from spec/95_test_vectors.md (the vector is named at each
test); witnesses meet the hypotheses of the statements in Certificates/Slice0/Obligations.lean. -/

namespace Sys2Proof.Tests

open Sys2Proof.Machine

/-! ## WellFormed refuses what no word stands for (R106, R111) -/

theorem test_wellFormed_refuses_legacy_shift_without_source :
    (Instr.shiftRight 1 none).wellFormed .legacy = false ∧ (Instr.shiftLeft 1 none).wellFormed .legacy = false := by decide

theorem test_wellFormed_refuses_modern_shift_with_source :
    (Instr.shiftRight 1 (some 2)).wellFormed .modern = false ∧ (Instr.shiftLeft 1 (some 2)).wellFormed .modern = false := by
  decide

theorem test_wellFormed_refuses_legacy_jumpOffset_with_register :
    (Instr.jumpOffset 0x3F0 (some 3)).wellFormed .legacy = false := by decide

theorem test_wellFormed_refuses_modern_jumpOffset_without_its_register :
    (Instr.jumpOffset 0x3F0 none).wellFormed .modern = false ∧
    (Instr.jumpOffset 0x3F0 (some 4)).wellFormed .modern = false := by decide

theorem test_wellFormed_refuses_machineRoutine_of_a_fixed_word :
    (Instr.machineRoutine 0x0E0).wellFormed .legacy = false ∧ (Instr.machineRoutine 0x0EE).wellFormed .modern = false := by
  decide

/-! ## Decoding: one word of every row of R112, its bits written out -/

theorem test_decode_call : decode .modern 0b0010_0011_0000_0001 = .ok (.call 0x301) := by decide
theorem test_decode_ret : decode .modern 0b0000_0000_1110_1110 = .ok .ret := by decide
theorem test_decode_jump : decode .legacy 0b0001_1010_1011_1100 = .ok (.jump 0xABC) := by decide
theorem test_decode_jumpOffset :
    decode .legacy 0b1011_0011_1111_0000 = .ok (.jumpOffset 0x3F0 none) ∧
    decode .modern 0b1011_0011_1111_0000 = .ok (.jumpOffset 0x3F0 (some 3)) := by decide
theorem test_decode_skipEqualByte : decode .legacy 0b0011_0001_0010_0011 = .ok (.skipEqualByte 1 0x23) := by decide
theorem test_decode_skipNotEqualByte : decode .legacy 0b0100_1010_0000_0111 = .ok (.skipNotEqualByte 0xA 0x07) := by decide
theorem test_decode_skipEqualVariable : decode .legacy 0b0101_0001_0010_0000 = .ok (.skipEqualVariable 1 2) := by decide
theorem test_decode_skipNotEqualVariable :
    decode .legacy 0b1001_0011_1110_0000 = .ok (.skipNotEqualVariable 3 0xE) := by decide
theorem test_decode_skipKey : decode .legacy 0b1110_0001_1001_1110 = .ok (.skipKey 1) := by decide
theorem test_decode_skipNotKey : decode .legacy 0b1110_0101_1010_0001 = .ok (.skipNotKey 5) := by decide
theorem test_decode_setWithByte : decode .legacy 0b0110_0111_1000_1001 = .ok (.setWithByte 7 0x89) := by decide
theorem test_decode_setWithVariable : decode .legacy 0b1000_0011_1111_0000 = .ok (.setWithVariable 3 0xF) := by decide
theorem test_decode_setIndexWithAddress :
    decode .legacy 0b1010_0011_0000_0010 = .ok (.setIndexWithAddress 0x302) := by decide
theorem test_decode_setIndexWithSpriteAddress :
    decode .legacy 0b1111_0100_0010_1001 = .ok (.setIndexWithSpriteAddress 4) := by decide
theorem test_decode_addWithByte : decode .legacy 0b0111_0001_1111_1110 = .ok (.addWithByte 1 0xFE) := by decide
theorem test_decode_addWithVariable : decode .legacy 0b1000_0000_0001_0100 = .ok (.addWithVariable 0 1) := by decide
theorem test_decode_addIndexWithVariable :
    decode .legacy 0b1111_0110_0001_1110 = .ok (.addIndexWithVariable 6) := by decide
theorem test_decode_subWithVariable : decode .legacy 0b1000_0000_0001_0101 = .ok (.subWithVariable 0 1) := by decide
theorem test_decode_subWithVariableNot :
    decode .legacy 0b1000_0000_0001_0111 = .ok (.subWithVariableNot 0 1) := by decide
theorem test_decode_shiftRight :
    decode .legacy 0b1000_0001_0010_0110 = .ok (.shiftRight 1 (some 2)) ∧
    decode .modern 0b1000_0001_0010_0110 = .ok (.shiftRight 1 none) := by decide
theorem test_decode_shiftLeft :
    decode .legacy 0b1000_0001_0010_1110 = .ok (.shiftLeft 1 (some 2)) ∧
    decode .modern 0b1000_0001_0010_1110 = .ok (.shiftLeft 1 none) := by decide
theorem test_decode_or : decode .legacy 0b1000_0001_0010_0001 = .ok (.or 1 2) := by decide
theorem test_decode_and : decode .legacy 0b1000_0001_0010_0010 = .ok (.and 1 2) := by decide
theorem test_decode_xor : decode .legacy 0b1000_0001_0010_0011 = .ok (.xor 1 2) := by decide
theorem test_decode_clearScreen : decode .legacy 0b0000_0000_1110_0000 = .ok .clearScreen := by decide
theorem test_decode_draw : decode .legacy 0b1101_0001_0010_1111 = .ok (.draw 1 2 0xF) := by decide
theorem test_decode_setVariableWithDelayTimer :
    decode .legacy 0b1111_0001_0000_0111 = .ok (.setVariableWithDelayTimer 1) := by decide
theorem test_decode_setDelayTimer : decode .legacy 0b1111_0010_0001_0101 = .ok (.setDelayTimer 2) := by decide
theorem test_decode_setSoundTimer : decode .legacy 0b1111_0011_0001_1000 = .ok (.setSoundTimer 3) := by decide
theorem test_decode_storeRegisters : decode .legacy 0b1111_0011_0101_0101 = .ok (.storeRegisters 3) := by decide
theorem test_decode_loadIntoRegisters : decode .legacy 0b1111_0001_0110_0101 = .ok (.loadIntoRegisters 1) := by decide
theorem test_decode_storeDecimalConversion :
    decode .legacy 0b1111_1000_0011_0011 = .ok (.storeDecimalConversion 8) := by decide
theorem test_decode_waitForKey : decode .legacy 0b1111_1111_0000_1010 = .ok (.waitForKey 0xF) := by decide
theorem test_decode_randomAnd : decode .legacy 0b1100_0011_0000_1111 = .ok (.randomAnd 3 0x0F) := by decide
theorem test_decode_machineRoutine : decode .legacy 0b0000_0000_1110_0001 = .ok (.machineRoutine 0x0E1) := by decide

/-- L2-20, L2-21. -/
theorem test_encode_canonical :
    encode (.shiftRight 1 none) = 0x8106 ∧ encode (.draw 0xA 0xB 0) = 0xDAB0 := by decide

/-- L2-7 to L2-11, L2-13, L2-14. -/
theorem test_decode_rejects :
    decode .legacy 0x5121 = .error (.noPattern 0x5121) ∧ decode .legacy 0x800F = .error (.noPattern 0x800F) ∧
    decode .legacy 0x9121 = .error (.noPattern 0x9121) ∧ decode .legacy 0xE000 = .error (.noPattern 0xE000) ∧
    decode .legacy 0xF000 = .error (.noPattern 0xF000) := by decide

/-! ## One step of an instruction -/

/-- The answer is a next state of which `p` holds. -/
def answers (r : Result) (p : State → Bool) : Bool :=
  match r with
  | .next t => p t
  | .fault _ => false
  | .refused _ => false

/-- The answer is that the fault was raised at address `pc`, nothing else said. -/
def raised (r : Result) (f : Fault) (pc : Word) : Bool := answers r fun t => t.fault == some f && t.pc == pc

/-- The state after `new([])` in Legacy mode (the conventions of 95_test_vectors.md). -/
def legacy : State := State.reset.withQuirk .legacy

/-- The same in Modern mode. -/
def modern : State := State.reset.withQuirk .modern

/-- The state with bytes stored in memory. -/
def store (s : State) (a : Nat) (bytes : List Byte) : State := s.withMem (s.mem.writeBytes a bytes)

/-- The state with one pixel turned on. -/
def lit (s : State) (x : Fin 64) (y : Fin 32) : State := s.withDisp (s.disp.set y (s.disp[y].set x true))

/-- The state with one key slot changed. -/
def slot (s : State) (k : Key) (v : KeySlot) : State := s.withKeys (s.keys.set k v)

/-- L2-28. -/
theorem test_call : answers (exec (.call 0x300) legacy) (fun t => t.stack == [0x202] && t.pc == 0x300) = true := by decide
/-- L2-31. -/
theorem test_call_full_stack :
    raised (exec (.call 0x400) { legacy with
      cfg := { resetConfig with stackDepth := .limit 16 }, stack := List.replicate 16 0x300 }) (.stackOverflow 0x202) 0x200
      = true := by decide
/-- L2-29. -/
theorem test_ret :
    answers (exec .ret ((legacy.withStack [0x300, 0x202]).withPc 0x300)) (fun t => t.stack == [0x300] && t.pc == 0x202)
      = true := by decide
/-- L2-30. -/
theorem test_ret_empty_stack : raised (exec .ret legacy) .stackUnderflow 0x200 = true := by decide
/-- L2-43. -/
theorem test_jump : answers (exec (.jump 0x200) legacy) (fun t => t.pc == 0x200) = true := by decide
/-- L2-40. -/
theorem test_jumpOffset_legacy :
    answers (exec (.jumpOffset 0xFFF none) (legacy.setReg 0 0xFF)) (fun t => t.pc == 0x10FE) = true := by decide
/-- L2-41. -/
theorem test_jumpOffset_modern :
    answers (exec (.jumpOffset 0x2FF (some 2)) ((modern.setReg 2 1).setReg 0 0x50)) (fun t => t.pc == 0x300) = true := by
  decide
/-- L2-35. -/
theorem test_skipEqualByte :
    answers (exec (.skipEqualByte 0 0) (legacy.withPc 0xFFE)) (fun t => t.pc == 0x1002) = true := by decide
/-- L2-36. -/
theorem test_skipNotEqualByte :
    answers (exec (.skipNotEqualByte 0xA 0x07) (legacy.setReg 0xA 0x07)) (fun t => t.pc == 0x202) = true := by decide
/-- L2-37. -/
theorem test_skipEqualVariable :
    answers (exec (.skipEqualVariable 1 2) ((legacy.setReg 1 0x33).setReg 2 0x34)) (fun t => t.pc == 0x202) = true := by
  decide
/-- L2-39. -/
theorem test_skipNotEqualVariable :
    answers (exec (.skipNotEqualVariable 1 1) legacy) (fun t => t.pc == 0x202) = true := by decide
/-- L2-48. -/
theorem test_skipKey : answers (exec (.skipKey 5) (legacy.setReg 5 0xC)) (fun t => t.pc == 0x202) = true := by decide
/-- L2-44. -/
theorem test_skipKey_out_of_range :
    raised (exec (.skipKey 5) (legacy.setReg 5 0x10)) (.keyIndexOutOfRange 16) 0x200 = true := by decide
/-- L2-46. -/
theorem test_skipNotKey_already_pressed :
    answers (exec (.skipNotKey 5) (slot (legacy.setReg 5 0xC) 12 .alreadyPressed)) (fun t => t.pc == 0x204) = true := by
  decide
/-- L2-47. -/
theorem test_skipNotKey_pressed :
    answers (exec (.skipNotKey 5) (slot (legacy.setReg 5 0xC) 12 .pressed)) (fun t => t.pc == 0x202) = true := by decide
/-- L2-27. -/
theorem test_setWithByte_odd_pc :
    answers (step (store (legacy.withPc 0x201) 0x201 [0x60, 0x7F])) (fun t => t.reg 0 == 0x7F && t.pc == 0x203) = true := by
  decide
/-- L2-73. -/
theorem test_setWithVariable :
    answers (exec (.setWithVariable 3 2) (legacy.setReg 2 0x99)) (fun t => t.reg 3 == 0x99 && t.reg 2 == 0x99) = true := by
  decide
/-- L2-72. -/
theorem test_setIndexWithAddress :
    answers (exec (.setIndexWithAddress 0xFFF) legacy) (fun t => t.index == 0xFFF) = true := by decide
/-- L2-71. -/
theorem test_setIndexWithSpriteAddress :
    answers (exec (.setIndexWithSpriteAddress 0) (legacy.setReg 0 0xFF)) (fun t => t.index == 0x4FB) = true := by decide
/-- L2-63. -/
theorem test_addWithByte :
    answers (exec (.addWithByte 0 1) ((legacy.setReg 0 0xFF).setReg vF 5)) (fun t => t.reg 0 == 0 && t.reg vF == 5) = true := by
  decide
/-- L1-2. -/
theorem test_addWithVariable :
    answers (exec (.addWithVariable 0 1) ((legacy.setReg 0 0xFF).setReg 1 1)) (fun t => t.reg 0 == 0 && t.reg vF == 1)
      = true := by decide
/-- L2-51. -/
theorem test_addWithVariable_into_flag :
    answers (exec (.addWithVariable vF vF) (legacy.setReg vF 0x7F)) (fun t => t.reg vF == 0) = true := by decide
/-- L2-68. -/
theorem test_addIndexWithVariable :
    answers (exec (.addIndexWithVariable 0) ((legacy.withIndex 0xFFFF).setReg 0 1)) (fun t => t.index == 0) = true := by decide
/-- L1-3. -/
theorem test_subWithVariable :
    answers (exec (.subWithVariable 0 1) ((legacy.setReg 0 5).setReg 1 9)) (fun t => t.reg 0 == 0xFC && t.reg vF == 0)
      = true := by decide
/-- L2-52. -/
theorem test_subWithVariable_equal :
    answers (exec (.subWithVariable 0 1) ((legacy.setReg 0 0x42).setReg 1 0x42)) (fun t => t.reg 0 == 0 && t.reg vF == 1)
      = true := by decide
/-- L2-54. -/
theorem test_subWithVariableNot :
    answers (exec (.subWithVariableNot 0 1) ((legacy.setReg 0 9).setReg 1 5)) (fun t => t.reg 0 == 0xFC && t.reg vF == 0)
      = true := by decide
/-- L2-57. -/
theorem test_shiftRight_legacy_into_flag :
    answers (exec (.shiftRight vF (some 1)) ((legacy.setReg 1 1).setReg vF 2)) (fun t => t.reg vF == 1) = true := by decide
/-- L2-62. -/
theorem test_shiftRight_modern :
    answers (exec (.shiftRight 0 none) ((modern.setReg 0 3).setReg 1 0x80)) (fun t => t.reg 0 == 1 && t.reg vF == 1)
      = true := by decide
/-- L1-5. -/
theorem test_shiftLeft_legacy :
    answers (exec (.shiftLeft 0 (some 1)) (legacy.setReg 1 0x81))
      (fun t => t.reg 0 == 2 && t.reg vF == 1 && t.reg 1 == 0x81) = true := by decide
/-- L2-59. -/
theorem test_shiftLeft_modern :
    answers (exec (.shiftLeft 0 none) (modern.setReg 0 0x80)) (fun t => t.reg 0 == 0 && t.reg vF == 1) = true := by decide
/-- L2-65. -/
theorem test_or :
    answers (exec (.or 0 1) (((legacy.setReg 0 0x0F).setReg 1 0xF0).setReg vF 0x33))
      (fun t => t.reg 0 == 0xFF && t.reg vF == 0x33) = true := by decide
/-- R212, by hand: 0x3C AND 0x66 is 0x24. -/
theorem test_and :
    answers (exec (.and 0 1) ((legacy.setReg 0 0x3C).setReg 1 0x66)) (fun t => t.reg 0 == 0x24) = true := by decide
/-- L2-66. -/
theorem test_xor : answers (exec (.xor 1 1) (legacy.setReg 1 0x5A)) (fun t => t.reg 1 == 0) = true := by decide
/-- L2-86. -/
theorem test_clearScreen :
    answers (exec .clearScreen (lit legacy 63 31)) (fun t => !t.disp.pixel 63 31 && !t.disp.pixel 0 0) = true := by decide
/-- L2-80. -/
theorem test_draw_collision :
    answers (exec (.draw 0 1 1) (lit (store (legacy.withIndex 0x300) 0x300 [0xC0]) 1 0))
      (fun t => t.disp.pixel 0 0 && !t.disp.pixel 1 0 && t.reg vF == 1) = true := by decide
/-- L1-4. -/
theorem test_draw_clips :
    answers (exec (.draw 0 1 1) ((store (legacy.withIndex 0x300) 0x300 [0xFF]).setReg 0 62))
      (fun t => t.disp.pixel 62 0 && t.disp.pixel 63 0 && !t.disp.pixel 0 0 && !t.disp.pixel 61 0 && t.reg vF == 0)
      = true := by decide
/-- L2-90, its last step. -/
theorem test_setVariableWithDelayTimer :
    answers (exec (.setVariableWithDelayTimer 1) (legacy.withDt ⟨2, .aboveZero⟩)) (fun t => t.reg 1 == 2) = true := by decide
/-- L2-88. -/
theorem test_setDelayTimer_loads :
    answers (exec (.setDelayTimer 0) (legacy.withDt ⟨9, .aboveZero⟩)) (fun t => t.dt == ⟨0, .zero⟩) = true := by decide
/-- L2-89. -/
theorem test_setDelayTimer_reset60 :
    answers (exec (.setDelayTimer 0) { legacy.setReg 0 5 with cfg := { resetConfig with timerWrite := .reset60 } })
      (fun t => t.dt == ⟨60, .aboveZero⟩) = true := by decide
/-- L2-93. -/
theorem test_setSoundTimer :
    answers (exec (.setSoundTimer 2) (legacy.setReg 2 0xFF)) (fun t => t.st == ⟨255, .aboveZero⟩ && t.dt == ⟨0, .zero⟩)
      = true := by decide
/-- L2-104. -/
theorem test_storeRegisters_at_the_top :
    answers (exec (.storeRegisters 0) ((legacy.withIndex 0xFFF).setReg 0 0x77))
      (fun t => t.mem.read 0xFFF == 0x77 && t.index == 0x1000) = true := by decide
/-- L2-106. -/
theorem test_storeRegisters_over_the_font :
    answers (exec (.storeRegisters 0) (modern.setReg 0 0xFF)) (fun t => t.mem.read 0 == 0xFF && t.mem.read 1 == 0x90)
      = true := by decide
/-- L2-105, its first and last bytes. -/
theorem test_loadIntoRegisters :
    answers (exec (.loadIntoRegisters 0xF) (store (modern.withIndex 0x300) 0x300
        [0x10, 0x11, 0x12, 0x13, 0x14, 0x15, 0x16, 0x17, 0x18, 0x19, 0x1A, 0x1B, 0x1C, 0x1D, 0x1E, 0x1F]))
      (fun t => t.reg 0 == 0x10 && t.reg 1 == 0x11 && t.reg vF == 0x1F && t.index == 0x300) = true := by decide
/-- L2-97. -/
theorem test_storeDecimalConversion :
    answers (exec (.storeDecimalConversion 0) ((legacy.withIndex 0x300).setReg 0 156))
      (fun t => t.mem.readBytes 0x300 3 == [1, 5, 6] && t.index == 0x300) = true := by decide
/-- L2-100. -/
theorem test_storeDecimalConversion_out_of_range :
    raised (exec (.storeDecimalConversion 0) ((legacy.withIndex 0xFFE).setReg 0 1)) (.memoryOutOfRange 0x1000) 0x200
      = true := by decide
/-- L1-6, its first step. -/
theorem test_waitForKey :
    answers (exec (.waitForKey 5) ((slot legacy 3 .pressed).withRelEvent (some 2)))
      (fun t => t.key 3 == .alreadyPressed && t.key 4 == .notPressed && t.waitReg == some 5 && t.relEvent == none &&
        t.pc == 0x202) = true := by decide
/-- L2-116. -/
theorem test_randomAnd : answers (exec (.randomAnd 3 0x0F) (legacy.withRnd 0xA7)) (fun t => t.reg 3 == 0x07) = true := by
  decide
/-- L2-119. -/
theorem test_machineRoutine :
    answers (exec (.machineRoutine 0x123) legacy) (fun t => t == legacy.withPc 0x202) = true := by decide

/-! ## The step and the driver's operations -/

/-- L2-25. -/
theorem test_step_decode_error :
    raised (stepBlock (store legacy 0x200 [0x50, 0x01])) (.decodeError 0x5001) 0x200 = true := by decide
/-- L2-24. -/
theorem test_step_fetch_past_memory :
    raised (stepBlock (legacy.withPc 0xFFF)) (.memoryOutOfRange 0x1000) 0xFFF = true := by decide
/-- L2-110, L2-111. -/
theorem test_release_events :
    (releaseKey 4 (slot legacy 4 .alreadyPressed)).relEvent = none ∧
    (releaseKey 2 (pressKey 2 legacy)).relEvent = some 2 := by decide
/-- L2-91, L2-92. -/
theorem test_ticks :
    (tickTimer .sound ((legacy.withSt ⟨5, .aboveZero⟩).withDt ⟨5, .aboveZero⟩)).st = ⟨4, .aboveZero⟩ ∧
    (tickTimer .sound ((legacy.withSt ⟨5, .aboveZero⟩).withDt ⟨5, .aboveZero⟩)).dt = ⟨5, .aboveZero⟩ ∧
    (tickTimer .delay (legacy.withDt ⟨1, .aboveZero⟩)).dt = ⟨0, .zero⟩ := by decide
/-- L2-114, its last step. -/
theorem test_wait_ends :
    answers (stepBlock (((legacy.withPc 0x202).withWaitReg (some vF)).withRelEvent (some 7)))
      (fun t => t.reg vF == 7 && t.waitReg == none && t.relEvent == none && t.pc == 0x202) = true := by decide

/-! ## Witnesses: the hypotheses of each statement, met by a concrete state, at the boundary of each clause -/

/-- A state about to run a word at `pc`. -/
def running (pc : Word) (hi lo : Byte) : State := store (legacy.withPc pc) pc.toNat [hi, lo]

/-- `RowSelects`: each mask of R112 met by a word of its row with operand bits set. -/
theorem test_witness_rows :
    (0x2FFF : Word) &&& 0xF000 = 0x2000 ∧ (0x00EE : Word) &&& 0xFFFF = 0x00EE ∧ (0x1ABC : Word) &&& 0xF000 = 0x1000 ∧
    (0xB3F0 : Word) &&& 0xF000 = 0xB000 ∧ (0x3FFF : Word) &&& 0xF000 = 0x3000 ∧ (0x4A07 : Word) &&& 0xF000 = 0x4000 ∧
    (0x5FE0 : Word) &&& 0xF00F = 0x5000 ∧ (0x9120 : Word) &&& 0xF00F = 0x9000 ∧ (0xEF9E : Word) &&& 0xF0FF = 0xE09E ∧
    (0xEFA1 : Word) &&& 0xF0FF = 0xE0A1 ∧ (0x6FFF : Word) &&& 0xF000 = 0x6000 ∧ (0x8FF0 : Word) &&& 0xF00F = 0x8000 ∧
    (0xAFFF : Word) &&& 0xF000 = 0xA000 ∧ (0xFF1E : Word) &&& 0xF0FF = 0xF01E ∧ (0xFF29 : Word) &&& 0xF0FF = 0xF029 ∧
    (0x7FFF : Word) &&& 0xF000 = 0x7000 ∧ (0x8FF4 : Word) &&& 0xF00F = 0x8004 ∧ (0x8FF5 : Word) &&& 0xF00F = 0x8005 ∧
    (0x8FF7 : Word) &&& 0xF00F = 0x8007 ∧ (0x8126 : Word) &&& 0xF00F = 0x8006 ∧ (0x812E : Word) &&& 0xF00F = 0x800E ∧
    (0x8FF1 : Word) &&& 0xF00F = 0x8001 ∧ (0x8FF2 : Word) &&& 0xF00F = 0x8002 ∧ (0x8FF3 : Word) &&& 0xF00F = 0x8003 := by
  decide

theorem test_witness_rows_of_the_other_families :
    (0x00E0 : Word) &&& 0xFFFF = 0x00E0 ∧ (0xDAB0 : Word) &&& 0xF000 = 0xD000 ∧ (0xFF07 : Word) &&& 0xF0FF = 0xF007 ∧
    (0xFF15 : Word) &&& 0xF0FF = 0xF015 ∧ (0xFF18 : Word) &&& 0xF0FF = 0xF018 ∧ (0xFF55 : Word) &&& 0xF0FF = 0xF055 ∧
    (0xFF65 : Word) &&& 0xF0FF = 0xF065 ∧ (0xFF33 : Word) &&& 0xF0FF = 0xF033 ∧ (0xFF0A : Word) &&& 0xF0FF = 0xF00A ∧
    (0xCFFF : Word) &&& 0xF000 = 0xC000 ∧
    ((0x0FFF : Word) &&& 0xF000 = 0x0000 ∧ (0x0FFF : Word) ≠ 0x00E0 ∧ (0x0FFF : Word) ≠ 0x00EE) := by decide

/-- DecodeOfEncodeGivesTheInstruction. -/
theorem test_witness_wellFormed :
    (Instr.shiftRight 0xF (some 0)).wellFormed .legacy = true ∧ (Instr.shiftLeft 0xF none).wellFormed .modern = true ∧
    (Instr.jumpOffset 0xF00 (some 0xF)).wellFormed .modern = true ∧ (Instr.jumpOffset 0xF00 none).wellFormed .legacy = true ∧
    (Instr.machineRoutine 0x0E1).wellFormed .legacy = true ∧ (Instr.draw 0xF 0xF 0xF).wellFormed .modern = true := by decide

/-- EncodeOfDecodeGivesTheWord, QuirkTouchesFiveInstructionsOnly: decoded words on both sides of the equivalence. -/
theorem test_witness_decodes :
    decode .modern 0x8126 = .ok (.shiftRight 1 none) ∧ encode (.shiftRight 1 none) ≠ 0x8126 ∧
    decode .modern 0x8106 = .ok (.shiftRight 1 none) ∧ encode (.shiftRight 1 none) = 0x8106 ∧
    decode .legacy 0x8126 = .ok (.shiftRight 1 (some 2)) ∧ encode (.shiftRight 1 (some 2)) = 0x8126 ∧
    decode .modern 0x8125 = .ok (.subWithVariable 1 2) ∧ decode .modern 0x8008 = .error (.noPattern 0x8008) := by decide

/-- DecodingFailsExactlyOnUnlistedWords: a word of each set, and one beside each. -/
theorem test_witness_unlisted_words :
    (opA 0x5121 = 5 ∧ opD 0x5121 ≠ 0) ∧ (opA 0x9121 = 9 ∧ opD 0x9121 ≠ 0) ∧ (opA 0x800F = 8 ∧ opD 0x800F = 0xF) ∧
    (opA 0xE19F = 0xE ∧ opNN 0xE19F ∉ [(0x9E : Byte), 0xA1]) ∧ (opA 0xF066 = 0xF ∧ opNN 0xF066 = 0x66) ∧
    (opA 0x5120 = 5 ∧ opD 0x5120 = 0) ∧ (opA 0x800E = 8 ∧ opD 0x800E = 0xE) ∧ (opA 0xE1A1 = 0xE ∧ opNN 0xE1A1 = 0xA1) ∧
    (opA 0xF065 = 0xF ∧ opNN 0xF065 = 0x65) := by decide

/-- StepRunsTheDecodedInstruction, at the first address after reset and at the last a word can be fetched from. -/
theorem test_witness_step_runs :
    (running 0x200 0x60 0x7F).fault = none ∧ (running 0x200 0x60 0x7F).waitReg = none ∧
    (running 0x200 0x60 0x7F).pc.toNat + 1 < 4096 ∧ (running 0x200 0x60 0x7F).driver = [] ∧
    decode .legacy (wordOfBytes ((running 0x200 0x60 0x7F).byteAt 0x200) ((running 0x200 0x60 0x7F).byteAt 0x201)) =
      .ok (.setWithByte 0 0x7F) ∧
    answers (exec (.setWithByte 0 0x7F) (running 0x200 0x60 0x7F)) (fun t => t.fault == none) = true ∧
    (running 0xFFE 0x00 0xE0).pc.toNat + 1 < 4096 ∧
    decode .legacy (wordOfBytes ((running 0xFFE 0x00 0xE0).byteAt 0xFFE) ((running 0xFFE 0x00 0xE0).byteAt 0xFFF)) =
      .ok .clearScreen ∧
    ((running 0x200 0x60 0x7F).withDriver [.step 7, .display]).driver = .step 7 :: [.display] := by decide

/-- ScheduledOperationIsPerformedNext. -/
theorem test_witness_scheduled :
    (legacy.withDriver [.tickTimer .delay, .step 3]).driver = .tickTimer .delay :: [.step 3] ∧ legacy.driver = [] ∧
    (∀ op ∈ [DriverOp.display, .timers, .fault], op = .display ∨ op = .timers ∨ op = .fault) := by decide

/-- FetchReadsTheWordAtPcOrFaults: 4094, 4095 and the largest `PC` of R34. -/
theorem test_witness_fetch :
    (legacy.withPc 4094).pc.toNat < 4095 ∧ 4095 ≤ (legacy.withPc 4095).pc.toNat ∧ (legacy.withPc 4095).fault = none ∧
    (legacy.withPc 4095).waitReg = none ∧ 4095 ≤ (legacy.withPc 0x10FE).pc.toNat := by decide

/-- UndecodableWordRaisesDecodeError. -/
theorem test_witness_undecodable :
    (running 0x200 0x50 0x01).fault = none ∧ (running 0x200 0x50 0x01).waitReg = none ∧
    (running 0x200 0x50 0x01).pc.toNat + 1 < 4096 ∧
    decode .legacy (wordOfBytes ((running 0x200 0x50 0x01).byteAt 0x200) ((running 0x200 0x50 0x01).byteAt 0x201)) =
      .error (.noPattern 0x5001) := by decide

/-- RaisedFaultCommitsNothingElse: an instruction, a fetch and a decode that raise. -/
theorem test_witness_raised :
    (running 0x200 0x00 0xEE).fault = none ∧
    raised (stepBlock (running 0x200 0x00 0xEE)) .stackUnderflow 0x200 = true ∧
    raised (stepBlock (legacy.withPc 0x1000)) (.memoryOutOfRange 0x1000) 0x1000 = true ∧
    raised (stepBlock (running 0x200 0x50 0x01)) (.decodeError 0x5001) 0x200 = true := by decide

/-- RecordedFaultIsPermanent. -/
theorem test_witness_faulted : (legacy.withFault (some .stackUnderflow)).fault = some .stackUnderflow := by decide

/-- BlockedStepChangesNothing, EveryStepAnswersANextState, ReleaseEventEndsTheWait. -/
theorem test_witness_waiting :
    ((legacy.withWaitReg (some 3)).fault = none ∧ (legacy.withWaitReg (some 3)).waitReg = some 3 ∧
      (legacy.withWaitReg (some 3)).relEvent = none) ∧
    ((legacy.withWaitReg (some vF)).withRelEvent (some 15)).relEvent = some 15 := by decide

/-- KeyReportsFollowTheTable: a slot in each of the three states, and another key. -/
theorem test_witness_key_reports :
    (slot legacy 4 .pressed).key 4 = .pressed ∧ (slot legacy 4 .alreadyPressed).key 4 = .alreadyPressed ∧
    legacy.key 4 = .notPressed ∧ (5 : Key) ≠ 4 := by decide

/-- A wait begun while key 3 was held, with reports of it, a step, a tick and a release of another key scheduled. -/
def heldWait : State :=
  ((slot legacy 3 .alreadyPressed).withWaitReg (some 5)).withDriver
    [.setKeyState 3 true, .step 0, .tickTimer .delay, .setKeyState 9 false, .setKeyState 3 true, .step 1]

/-- HeldKeyCannotEndTheWait. -/
theorem test_witness_held_key :
    heldWait.fault = none ∧ heldWait.waitReg = some 5 ∧ heldWait.relEvent = none ∧ (∀ j : Key, heldWait.key j ≠ .pressed) ∧
    ∀ j : Key, .setKeyState j true ∈ heldWait.driver →
      heldWait.key j = .alreadyPressed ∧ .setKeyState j false ∉ heldWait.driver := by decide

/-- NewBuildsTheMachineOrRefusesTheProgram: the longest program and one byte more, and a short one. -/
theorem test_witness_program_lengths :
    (List.replicate 3584 (0x12 : Byte)).length ≤ 3584 ∧ 3584 < (List.replicate 3585 (0x12 : Byte)).length ∧
    [(0x12 : Byte), 0x00].length ≤ 3584 := by
  simp only [List.length_replicate]; decide

/-- ConstructionMeetsTheInvariant: the smallest numeric `STACK_DEPTH`. -/
theorem test_witness_construction :
    ({ resetConfig with stackDepth := .limit 1 } : Config).wellFormed = true ∧
    ∃ s, State.new [0x12, 0x00] { resetConfig with stackDepth := .limit 1 } = .ok s := ⟨by decide, _, rfl⟩

/-- A state in a subroutine, about to return. -/
def inSubroutine : State := (running 0x300 0x00 0xEE).withStack [0x1000]

/-- EveryStepKeepsTheInvariant. -/
theorem test_witness_invariant :
    inSubroutine.Inv ∧ answers (step inSubroutine) (fun t => t.pc == 0x1000 && t.stack == []) = true :=
  ⟨{ memory := by decide, delayAgrees := by decide, soundAgrees := by decide, pcBound := by decide,
     returnBound := fun a h => by rw [List.mem_singleton.mp h]; decide, stackFits := trivial, config := by decide },
   by decide⟩

/-- QuirkTouchesFiveInstructionsOnly, OnlyRandomAndReadsTheRandomByte: an instruction of neither kind. -/
theorem test_witness_other_instruction :
    (∀ x, Instr.ret ≠ .storeRegisters x) ∧ (∀ x, Instr.ret ≠ .loadIntoRegisters x) ∧
    (∀ x nn, Instr.ret ≠ .randomAnd x nn) ∧ (∀ x y, Instr.ret ≠ .shiftRight x y) ∧ (∀ x y, Instr.ret ≠ .shiftLeft x y) ∧
    (∀ a r, Instr.ret ≠ .jumpOffset a r) ∧ decode .legacy 0x00EE = .ok .ret := by simp; decide

/-- AlreadyPressedLooksNotPressed: two states that differ in one slot. -/
theorem test_witness_key_slots :
    ∀ k : Key, (slot (slot legacy 2 .pressed) 3 .alreadyPressed).keys[k] = .pressed ↔
      (slot legacy 2 .pressed).key k = .pressed := by decide

/-- OnlyTheNamedRegistersAreWritten, and an operation that is no step. -/
theorem test_witness_unwritten_register :
    answers (exec (.addWithVariable 0 1) legacy) (fun _ => true) = true ∧ (2 : Reg) ∉ writtenRegs (.addWithVariable 0 1) ∧
    (2 : Reg) ≠ 3 ∧ (∀ r, DriverOp.tickTimer .delay ≠ .step r) ∧
    answers (perform (.tickTimer .delay) legacy) (fun _ => true) = true := by simp; decide

/-- OnlyClearScreenAndDrawChangeTheDisplay. -/
theorem test_witness_display_changes :
    answers (exec .clearScreen (lit legacy 0 0)) (fun t => t.disp.pixel 0 0 != (lit legacy 0 0).disp.pixel 0 0) = true ∧
    answers (exec (.draw 0 1 1) legacy) (fun t => t.disp.pixel 0 0 != legacy.disp.pixel 0 0) = true := by decide

/-- OnlyTheTwoStoresChangeMemory: the first and the last byte of the longest store, and the last byte of memory. -/
theorem test_witness_memory_changes :
    answers (exec (.storeRegisters 0xF) ((modern.withIndex 0xFF0).setReg 0 1)) (fun t => t.byteAt 0xFF0 != 0) = true ∧
    answers (exec (.storeRegisters 0xF) ((modern.withIndex 0xFF0).setReg 0xF 1)) (fun t => t.byteAt 0xFFF != 0) = true ∧
    answers (exec (.storeDecimalConversion 0) ((legacy.withIndex 0xFFD).setReg 0 255)) (fun t => t.byteAt 0xFFF != 0)
      = true := by decide

/-- OnlyTheNamedInstructionsWriteIndexAndStack. -/
theorem test_witness_index_and_stack_changes :
    answers (exec (.setIndexWithAddress 1) legacy) (fun t => t.index != legacy.index) = true ∧
    answers (exec (.setIndexWithSpriteAddress 0) (legacy.setReg 0 1)) (fun t => t.index != legacy.index) = true ∧
    answers (exec (.addIndexWithVariable 0) (legacy.setReg 0 1)) (fun t => t.index != legacy.index) = true ∧
    answers (exec (.storeRegisters 0) legacy) (fun t => t.index != legacy.index) = true ∧
    answers (exec (.loadIntoRegisters 0) legacy) (fun t => t.index != legacy.index) = true ∧
    answers (exec (.call 0x300) legacy) (fun t => t.stack != legacy.stack) = true ∧
    answers (exec .ret inSubroutine) (fun t => t.stack != inSubroutine.stack) = true := by decide

/-- OnlyTheNamedInstructionsWriteDevicesAndFault. -/
theorem test_witness_device_changes :
    answers (exec (.setDelayTimer 0) (legacy.setReg 0 1)) (fun t => t.dt != legacy.dt) = true ∧
    answers (exec (.setSoundTimer 0) (legacy.setReg 0 1)) (fun t => t.st != legacy.st) = true ∧
    answers (exec (.waitForKey 0) ((slot legacy 0 .pressed).withRelEvent (some 1)))
      (fun t => t.key 0 != .pressed && t.waitReg != none && t.relEvent != some 1) = true ∧
    answers (exec .ret legacy) (fun t => t.fault != none) = true := by decide

/-- SelfJumpIsAFixedPoint, at 0x200 and at the last address a word can be fetched from. -/
theorem test_witness_self_jump :
    (running 0x200 0x12 0x00).fault = none ∧ (running 0x200 0x12 0x00).waitReg = none ∧
    (running 0x200 0x12 0x00).pc.toNat < 4095 ∧
    256 * ((running 0x200 0x12 0x00).byteAt 0x200).toNat + ((running 0x200 0x12 0x00).byteAt 0x201).toNat
      = 0x1000 + 0x200 ∧
    256 * ((running 0xFFE 0x1F 0xFE).byteAt 0xFFE).toNat + ((running 0xFFE 0x1F 0xFE).byteAt 0xFFF).toNat
      = 0x1000 + 0xFFE := by decide

/-- A state with a stack of `n` entries under `STACK_DEPTH = d`. -/
def depth (d : StackDepth) (n : Nat) : State :=
  { legacy with cfg := { resetConfig with stackDepth := d }, stack := List.replicate n 0x300 }

/-- CallPushesTheReturnAddress: no limit, one below it, and at it. -/
theorem test_witness_stack_depths :
    (depth .unbounded 16).cfg.stackDepth ≠ .limit (depth .unbounded 16).stack.length ∧
    (depth (.limit 16) 15).cfg.stackDepth ≠ .limit (depth (.limit 16) 15).stack.length ∧
    (depth (.limit 16) 16).cfg.stackDepth = .limit (depth (.limit 16) 16).stack.length := by decide

/-- ReturnPopsTheProgramCounter. -/
theorem test_witness_stacks :
    (legacy.withStack [0x300, 0x202]).stack = [0x300] ++ [0x202] ∧ inSubroutine.stack = [] ++ [0x1000] ∧
    legacy.stack = [] := by decide

/-- ValueSkipsTestTheirCondition: each condition true and false. -/
theorem test_witness_skips :
    legacy.reg 0 = 0 ∧ legacy.reg 0 ≠ 1 ∧ legacy.reg 0 = legacy.reg 1 ∧ (legacy.setReg 1 0xFF).reg 0 ≠ (legacy.setReg 1 0xFF).reg 1 := by
  decide

/-- KeySkipsTestPressedOnly: key numbers 0, 15 and 16, and a slot in each state. -/
theorem test_witness_key_numbers :
    (legacy.reg 5).toNat = (0 : Key).val ∧ ((legacy.setReg 5 15).reg 5).toNat = (15 : Key).val ∧
    16 ≤ ((legacy.setReg 5 16).reg 5).toNat ∧ (slot legacy 15 .pressed).key 15 = .pressed ∧
    (slot legacy 15 .alreadyPressed).key 15 ≠ .pressed := by decide

/-- The two-register results: a destination that is not `VF`, and a flag on each side of its bound. -/
theorem test_witness_flags :
    (0 : Reg) ≠ vF ∧
    ((legacy.setReg 0 0xFF).reg 0).toNat + ((legacy.setReg 1 1).reg 1).toNat > 255 ∧
    ¬ ((legacy.setReg 0 0xFF).reg 0).toNat + (legacy.reg 1).toNat > 255 ∧ (legacy.reg 0).toNat ≥ (legacy.reg 1).toNat ∧
    ¬ (legacy.reg 0).toNat ≥ ((legacy.setReg 1 1).reg 1).toNat := by decide

/-- DrawTogglesExactlyTheSpritesPixels: where a sprite may start, and where it reaches past memory. -/
theorem test_witness_draw_range :
    (0 : Nibble) = 0 ∧ (legacy.withIndex 0xFFE).index.toNat + (2 : Nibble).toNat ≤ 4096 ∧
    ((2 : Nibble) ≠ 0 ∧ 4096 < (legacy.withIndex 0xFFF).index.toNat + (2 : Nibble).toNat) := by decide

/-- DrawTogglesExactlyTheSpritesPixels, DrawingTwiceRestoresTheDisplay: a pixel the first row of the glyph 0 falls on, one it does
not, and both on and off before the draw. -/
theorem test_witness_sprite :
    legacy.SpriteOn 0 1 5 3 0 ∧ ¬ legacy.SpriteOn 0 1 5 4 0 ∧ (lit legacy 3 0).SpriteOn 0 1 5 3 0 ∧
    (lit legacy 3 0).disp.pixel 3 0 = true ∧ legacy.disp.pixel 3 0 = false := by
  simp only [State.SpriteOn]; decide

/-- The same, for the clauses about every pixel of a sprite: a one-pixel sprite, off and on before the draw. -/
theorem test_witness_sprite_all_off_and_all_on :
    (∀ cx cy, legacy.SpriteOn 0 1 5 cx cy → legacy.disp.pixel cx cy = false) ∧
    ∀ cx cy, (lit (store (legacy.withIndex 0x300) 0x300 [0x80]) 0 0).SpriteOn 0 1 1 cx cy →
      (lit (store (legacy.withIndex 0x300) 0x300 [0x80]) 0 0).disp.pixel cx cy = true := by
  refine ⟨fun cx cy _ => pixel_blank cx cy, fun cx cy h => ?_⟩
  obtain ⟨-, -, -, hx, -, hy, hb⟩ := h
  have hy0 : cy = 0 := by
    have : (lit (store (legacy.withIndex 0x300) 0x300 [0x80]) 0 0).reg 1 = 0 := by decide
    rw [this] at hy
    have : (1 : Nibble).toNat = 1 := rfl
    have : (0 : Byte).toNat = 0 := rfl
    omega
  have hx0 : cx < 8 := by
    have : (lit (store (legacy.withIndex 0x300) 0x300 [0x80]) 0 0).reg 0 = 0 := by decide
    rw [this] at hx
    have : (0 : Byte).toNat = 0 := rfl
    omega
  subst hy0
  revert hb
  interval_cases cx <;> decide

/-- DrawingTwiceRestoresTheDisplay: two draws at one place. -/
theorem test_witness_draw_twice :
    answers (exec (.draw 0 1 5) legacy) (fun t =>
      (t.reg 0).toNat % 64 == (legacy.reg 0).toNat % 64 && (t.reg 1).toNat % 32 == (legacy.reg 1).toNat % 32 &&
      answers (exec (.draw 0 1 5) t) (fun _ => true)) = true := by decide

/-- TimerWritesLoadByTimerWrite, TickDecrementsTheNamedTimerOnly, CountdownReachesZeroAndStays. -/
theorem test_witness_timers :
    legacy.cfg.timerWrite = .loadVx ∧ ({ resetConfig with timerWrite := .reset60 } : Config).timerWrite = .reset60 ∧
    1 < (⟨2, .aboveZero⟩ : Timer).value.toNat ∧ (⟨1, .aboveZero⟩ : Timer).value = 1 ∧ (⟨0, .zero⟩ : Timer).value = 0 ∧
    Timer.Agrees ⟨60, .aboveZero⟩ ∧ Timer.Agrees ⟨0, .zero⟩ := by decide

/-- The transfers: canonical memory, the last operand that fits and the first that does not, both quirks. -/
theorem test_witness_transfers :
    (store legacy 0x300 [0x11, 0x22]).mem.wf = true ∧ (legacy.withIndex 0xFF0).index.toNat + (0xF : Reg).val < 4096 ∧
    4096 ≤ (legacy.withIndex 0xFF1).index.toNat + (0xF : Reg).val ∧ (legacy.withIndex 0xFFD).index.toNat + 2 < 4096 ∧
    4096 ≤ (legacy.withIndex 0xFFE).index.toNat + 2 ∧ legacy.cfg.quirk = .legacy ∧ modern.cfg.quirk = .modern ∧
    (3 : Reg) ≤ 3 ∧ (3 : Reg) < 4 := by decide

/-- StoreThenLoadGivesTheRegistersBack: a store, and the state loading it back with fresh registers. -/
theorem test_witness_store_then_load :
    legacy.mem.wf = true ∧ (legacy.withIndex 0x300).index.toNat + (3 : Reg).val < 4096 ∧
    answers (exec (.storeRegisters 3) ((legacy.withIndex 0x300).setReg 0 0x11)) (fun t =>
      ((modern.withMem t.mem).withIndex 0x300).mem == t.mem && ((modern.withMem t.mem).withIndex 0x300).index == 0x300)
      = true := by decide

end Sys2Proof.Tests
end

/-! ## `QUIRK`: what reads it (R10, R116, D2) -/

namespace Sys2Proof.Machine

section WithQuirk

variable (s : State) (q : Quirk)

theorem skipIf_withQuirk (c : Bool) : skipIf c (s.withQuirk q) = mapNext (·.withQuirk q) (skipIf c s) := by
  rw [skipIf_eq, skipIf_eq]; rfl

/-- A checked operation ignores `QUIRK`, whether it goes on or raises, when what it goes on to ignores it. -/
theorem orRaise_withQuirk {α : Type} (r : Except Fault α) {go go' : α → Result}
    (h : ∀ a, go' a = mapNext (·.withQuirk q) (go a)) :
    orRaise r (s.withQuirk q) go' = mapNext (·.withQuirk q) (orRaise r s go) := by
  cases r with
  | ok a => exact h a
  | error f => rfl

/-- Only the two transfers read `QUIRK` (R280, R281). In each case the checked operation of the instruction answers alike
in both states, since it reads no part of the configuration but `STACK_DEPTH`. -/
theorem exec_withQuirk (i : Instr) (hstore : ∀ x, i ≠ .storeRegisters x) (hload : ∀ x, i ≠ .loadIntoRegisters x) :
    exec i (s.withQuirk q) = mapNext (·.withQuirk q) (exec i s) := by
  cases i with
  | storeRegisters x => exact absurd rfl (hstore x)
  | loadIntoRegisters x => exact absurd rfl (hload x)
  | call nnn => exact orRaise_withQuirk s q (s.push (s.pc + 2)) fun _ => rfl
  | ret => exact orRaise_withQuirk s q s.pop fun _ => rfl
  | skipEqualByte x nn => exact skipIf_withQuirk s q (s.reg x == nn)
  | skipNotEqualByte x nn => exact skipIf_withQuirk s q (s.reg x != nn)
  | skipEqualVariable x y => exact skipIf_withQuirk s q (s.reg x == s.reg y)
  | skipNotEqualVariable x y => exact skipIf_withQuirk s q (s.reg x != s.reg y)
  | skipKey x => exact orRaise_withQuirk s q (s.keyOperand x) fun k => skipIf_withQuirk s q (s.key k == .pressed)
  | skipNotKey x => exact orRaise_withQuirk s q (s.keyOperand x) fun k => skipIf_withQuirk s q (s.key k != .pressed)
  | draw x y n => exact orRaise_withQuirk s q (s.readOperand n.toNat) fun _ => rfl
  | storeDecimalConversion x => exact orRaise_withQuirk s q (s.storeOperand (decimalDigits (s.reg x))) fun _ => rfl
  | waitForKey x => rw [exec_waitForKey, exec_waitForKey]; rfl
  | _ => rfl -- an unconditional update of fields other than the configuration

end WithQuirk

end Sys2Proof.Machine

namespace Sys2Proof

/-- In group 8 the quirks differ at most in the register a shift carries (R106). -/
theorem decodeGroup8_quirk_cases (q q' : Quirk) (op : Word) :
    decodeGroup8 q' op = decodeGroup8 q op ∨
    (∃ x y y', decodeGroup8 q op = .ok (.shiftRight x y) ∧ decodeGroup8 q' op = .ok (.shiftRight x y')) ∨
    (∃ x y y', decodeGroup8 q op = .ok (.shiftLeft x y) ∧ decodeGroup8 q' op = .ok (.shiftLeft x y')) := by
  unfold decodeGroup8
  split
  case h_7 => exact .inr (.inl ⟨_, _, _, rfl, rfl⟩) -- 8XY6
  case h_9 => exact .inr (.inr ⟨_, _, _, rfl, rfl⟩) -- 8XYE
  all_goals exact .inl rfl

/-- A word decodes alike under both quirks, or to the same one of the three variants of R106 with another operand form. -/
theorem decode_quirk_cases (q q' : Quirk) (op : Word) :
    decode q' op = decode q op ∨
    (∃ x y y', decode q op = .ok (.shiftRight x y) ∧ decode q' op = .ok (.shiftRight x y')) ∨
    (∃ x y y', decode q op = .ok (.shiftLeft x y) ∧ decode q' op = .ok (.shiftLeft x y')) ∨
    (∃ nnn r r', decode q op = .ok (.jumpOffset nnn r) ∧ decode q' op = .ok (.jumpOffset nnn r')) := by
  unfold decode
  split
  case h_9 => exact (decodeGroup8_quirk_cases q q' op).imp_right (Or.imp_right .inl) -- 8XYN
  case h_12 => exact .inr (.inr (.inr ⟨_, _, _, rfl, rfl⟩)) -- BNNN
  all_goals exact .inl rfl

theorem decode_quirk_ok {q : Quirk} (q' : Quirk) {op : Word} {i : Instr} (h : decode q op = .ok i)
    (hright : ∀ x y, i ≠ .shiftRight x y) (hleft : ∀ x y, i ≠ .shiftLeft x y) (hjump : ∀ a r, i ≠ .jumpOffset a r) :
    decode q' op = .ok i := by
  rcases decode_quirk_cases q q' op with
    hsame | ⟨x, y, -, hd, -⟩ | ⟨x, y, -, hd, -⟩ | ⟨nnn, r, -, hd, -⟩
  · exact hsame.trans h
  · exact absurd (Except.ok.inj (h.symm.trans hd)) (hright x y)
  · exact absurd (Except.ok.inj (h.symm.trans hd)) (hleft x y)
  · exact absurd (Except.ok.inj (h.symm.trans hd)) (hjump nnn r)

theorem decode_quirk_error {q : Quirk} (q' : Quirk) {op : Word} {e : DecodeError} (h : decode q op = .error e) :
    decode q' op = .error e := by
  rcases decode_quirk_cases q q' op with hsame | ⟨_, _, _, hd, -⟩ | ⟨_, _, _, hd, -⟩ | ⟨_, _, _, hd, -⟩
  · exact hsame.trans h
  all_goals cases h.symm.trans hd

/-- Settles O23, from the instructions' independence of `QUIRK` and the cases in which the decoder reads it. -/
theorem quirkTouchesFiveInstructionsOnly : Obligations.QuirkTouchesFiveInstructionsOnly :=
  ⟨fun i s q hstore hload => Machine.exec_withQuirk s q i hstore hload,
    fun _ q' _ _ h => decode_quirk_ok q' h, fun _ q' _ h => decode_quirk_error q' h⟩

end Sys2Proof

/-! ## The invariant: what keeps it (R8, R9, R34, R42, R170, log 9) -/

namespace Sys2Proof.Machine

theorem Timer.agrees_atValue (v : Byte) : (Timer.atValue v).Agrees := by
  by_cases h : v = 0 <;> simp [Timer.atValue, Timer.Agrees, h]

/-- Whatever `TIMER_WRITE` is, a load leaves a timer that agrees (R263, R264). -/
theorem Timer.agrees_load (t : Timer) (w : TimerWrite) (v : Byte) : (t.load w v).Agrees := by
  cases w with
  | loadVx => exact Timer.agrees_atValue v
  | reset60 => simp [Timer.load, Timer.reset, Timer.Agrees]

/-- A decrement leaves an agreeing timer agreeing: above 1 neither the old nor the new value is 0 (R261). -/
theorem Timer.agrees_decrement {t : Timer} (h : t.Agrees) : t.decrement.Agrees := by
  unfold Timer.decrement
  split
  · next hv =>
    have hold : t.value ≠ 0 := by rintro h0; simp [h0] at hv
    have hnew : t.value - 1 ≠ 0 := by bv_omega
    exact iff_of_false (fun hl => hold (h.mp hl)) hnew
  · split
    · exact iff_of_true rfl rfl
    · exact h

/-- A checked write keeps the canonical form (log 9). -/
theorem State.memWrite_wf {s : State} {addr : Nat} {bytes : List Byte} {m : Memory} (hm : s.mem.wf = true)
    (h : s.memWrite addr bytes = .ok m) : m.wf = true := by
  obtain ⟨rfl, hempty | hrange⟩ := State.memWrite_inv h
  · rw [List.length_eq_zero_iff.mp hempty]; exact hm
  · exact Memory.wf_writeBytes hm addr bytes hrange

/-- A push that does not overflow adds one entry to a stack that was not full (R37). -/
theorem State.push_inv {s : State} {v : Word} {stack : List Word} (h : s.push v = .ok stack) :
    stack = s.stack ++ [v] ∧ s.cfg.stackDepth ≠ .limit s.stack.length := by
  cases hf : stackFull s.cfg.stackDepth s.stack with
  | true => rw [State.push_error hf] at h; cases h
  | false =>
    rw [State.push_ok hf] at h
    cases h
    exact ⟨rfl, fun hd => by rw [stackFull_iff.mpr hd] at hf; cases hf⟩

/-- A successful pop takes the last entry off (R37). -/
theorem State.pop_inv {s : State} {popped : Word × List Word} (h : s.pop = .ok popped) :
    s.stack = popped.2 ++ [popped.1] := by
  rcases s.pop_cases with ⟨-, he⟩ | ⟨v, rest, hs, hp⟩
  · cases he.symm.trans h
  · cases hp.symm.trans h; exact hs

/-- Fewer entries fit wherever more do (R9). -/
theorem State.StackFits.of_length_le {s : State} (h : s.StackFits) {stack : List Word}
    (hl : stack.length ≤ s.stack.length) : (s.withStack stack).StackFits := by
  unfold State.StackFits at *
  rw [State.withStack_cfg]
  split
  · trivial
  · next n hd => rw [hd] at h; exact hl.trans h

/-- A stack that fits and is not full has room for one more entry (R9, R37). -/
theorem State.StackFits.push {s : State} (h : s.StackFits) (hd : s.cfg.stackDepth ≠ .limit s.stack.length) (v : Word) :
    (s.withStack (s.stack ++ [v])).StackFits := by
  unfold State.StackFits at *
  rw [State.withStack_cfg]
  split
  · trivial
  · next n hn =>
    rw [hn] at h hd
    have hle : s.stack.length ≤ n := h
    have hne : n ≠ s.stack.length := fun he => hd (congrArg _ he)
    simp only [State.withStack_stack, List.length_append, List.length_singleton]
    omega

namespace State.Inv

variable {s : State} (h : s.Inv)
include h

/-- The invariant is about memory, the timers, `PC`, the stack and the configuration only. -/
theorem of_eq {t : State} (hmem : t.mem = s.mem) (hdt : t.dt = s.dt) (hst : t.st = s.st) (hpc : t.pc = s.pc)
    (hstack : t.stack = s.stack) (hcfg : t.cfg = s.cfg) : t.Inv where
  memory := hmem ▸ h.memory
  delayAgrees := hdt ▸ h.delayAgrees
  soundAgrees := hst ▸ h.soundAgrees
  pcBound := hpc ▸ h.pcBound
  returnBound := hstack ▸ h.returnBound
  stackFits := by unfold StackFits; rw [hcfg, hstack]; exact h.stackFits
  config := hcfg ▸ h.config

theorem withPc {pc : Word} (hpc : pc.toNat ≤ 0x10FE) : (s.withPc pc).Inv := { h with pcBound := hpc }

theorem withMem {m : Memory} (hm : m.wf = true) : (s.withMem m).Inv := { h with memory := hm }

theorem withDt {t : Timer} (ht : t.Agrees) : (s.withDt t).Inv := { h with delayAgrees := ht }

theorem withSt {t : Timer} (ht : t.Agrees) : (s.withSt t).Inv := { h with soundAgrees := ht }

theorem withStack {stack : List Word} (hret : ∀ a ∈ stack, a.toNat ≤ 0x1000) (hfits : (s.withStack stack).StackFits) :
    (s.withStack stack).Inv := { h with returnBound := hret, stackFits := hfits }

theorem withFault (f : Option Fault) : (s.withFault f).Inv := h.of_eq rfl rfl rfl rfl rfl rfl

theorem withV (v : Vector Byte 16) : (s.withV v).Inv := h.of_eq rfl rfl rfl rfl rfl rfl

theorem withIndex (i : Word) : (s.withIndex i).Inv := h.of_eq rfl rfl rfl rfl rfl rfl

theorem withKeys (keys : Vector KeySlot 16) : (s.withKeys keys).Inv := h.of_eq rfl rfl rfl rfl rfl rfl

theorem withWaitReg (w : Option Reg) : (s.withWaitReg w).Inv := h.of_eq rfl rfl rfl rfl rfl rfl

theorem withRelEvent (e : Option Key) : (s.withRelEvent e).Inv := h.of_eq rfl rfl rfl rfl rfl rfl

theorem setReg (x : Reg) (b : Byte) : (s.setReg x b).Inv := h.withV _

/-- A push of a return address keeps the invariant (R170). -/
theorem push {v : Word} {stack : List Word} (hv : v.toNat ≤ 0x1000) (hp : s.push v = .ok stack) :
    (s.withStack stack).Inv := by
  obtain ⟨rfl, hd⟩ := State.push_inv hp
  refine h.withStack (fun a ha => ?_) (h.stackFits.push hd v)
  rcases List.mem_append.mp ha with ha | ha
  · exact h.returnBound a ha
  · rw [List.mem_singleton.mp ha]; exact hv

/-- A pop keeps the invariant, and the popped return address is one `PC` may hold (R171). -/
theorem pop {popped : Word × List Word} (hp : s.pop = .ok popped) : ((s.withStack popped.2).withPc popped.1).Inv := by
  have hs := State.pop_inv hp
  have hret : ∀ a ∈ popped.2 ++ [popped.1], a.toNat ≤ 0x1000 := hs ▸ h.returnBound
  have hrest := h.withStack (stack := popped.2) (fun a ha => hret a (List.mem_append_left _ ha))
    (h.stackFits.of_length_le (by simp [hs]))
  exact hrest.withPc ((hret popped.1 (by simp)).trans (by decide))

/-- A checked operation keeps the invariant when what it goes on to keeps it. -/
theorem orRaise {α : Type} {r : Except Fault α} {t : State} {go : α → Result} (ht : Machine.orRaise r s go = .next t)
    (hgo : ∀ a, r = .ok a → go a = .next t → t.Inv) : t.Inv := by
  rcases orRaise_cases ht with ⟨a, ha, hnext⟩ | ⟨f, -, rfl⟩
  · exact hgo a ha hnext
  · exact h.withFault _

/-- A skip from an instruction that could be fetched keeps the invariant (R174). -/
theorem skipIf {c : Bool} {t : State} (hpc : s.pc.toNat + 1 < 4096) (ht : Machine.skipIf c s = .next t) : t.Inv := by
  rw [skipIf_eq] at ht
  cases ht
  refine h.withPc ?_
  split <;> bv_omega

end State.Inv

theorem toNat_zextAddr (nnn : Addr) : (zextAddr nnn).toNat = nnn.toNat := by
  simp [zextAddr]; omega

/-- The sum `JumpOffset` jumps to is at most 0xFFF + 0xFF (R173). -/
theorem addIndex_zextAddr_le (nnn : Addr) (b : Byte) : (addIndex (zextAddr nnn) b.toNat).toNat ≤ 0x10FE := by
  have := nnn.isLt
  have := b.isLt
  rw [addIndex, BitVec.toNat_ofNat, toNat_zextAddr]
  omega

/-- Every instruction executed from an address a word can be fetched at keeps the invariant. -/
theorem exec_inv {i : Instr} {s t : State} (hs : s.Inv) (hpc : s.pc.toNat + 1 < 4096) (h : exec i s = .next t) :
    t.Inv := by
  have hreturn : (s.pc + 2).toNat ≤ 0x1000 := by bv_omega
  have hnext : (s.pc + 2).toNat ≤ 0x10FE := hreturn.trans (by decide)
  have haddr (nnn : Addr) : (zextAddr nnn).toNat ≤ 0x10FE := by
    have := nnn.isLt
    rw [toNat_zextAddr]; omega
  cases i with
  | call nnn =>
    refine hs.orRaise h fun stack hp hgo => ?_
    cases hgo; exact (hs.push hreturn hp).withPc (haddr nnn)
  | ret =>
    refine hs.orRaise h fun popped hp hgo => ?_
    cases hgo; exact hs.pop hp
  | jump nnn => cases h; exact hs.withPc (haddr nnn)
  | jumpOffset nnn register => cases h; exact hs.withPc (addIndex_zextAddr_le nnn _)
  | skipEqualByte x nn => exact hs.skipIf hpc h
  | skipNotEqualByte x nn => exact hs.skipIf hpc h
  | skipEqualVariable x y => exact hs.skipIf hpc h
  | skipNotEqualVariable x y => exact hs.skipIf hpc h
  | skipKey x => exact hs.orRaise h fun _ _ hgo => hs.skipIf hpc hgo
  | skipNotKey x => exact hs.orRaise h fun _ _ hgo => hs.skipIf hpc hgo
  | setIndexWithAddress nnn => cases h; exact (hs.withIndex _).withPc hnext
  | setIndexWithSpriteAddress x => cases h; exact (hs.withIndex _).withPc hnext
  | addIndexWithVariable x => cases h; exact (hs.withIndex _).withPc hnext
  | clearScreen => cases h; exact (hs.of_eq (t := s.withDisp blankDisplay) rfl rfl rfl rfl rfl rfl).withPc hnext
  | draw x y n =>
    refine hs.orRaise h fun rows _ hgo => ?_
    cases hgo
    exact (hs.of_eq (t := drawSprite x y rows s) rfl rfl rfl rfl rfl rfl).withPc hnext
  | setDelayTimer x => cases h; exact (hs.withDt (Timer.agrees_load _ _ _)).withPc hnext
  | setSoundTimer x => cases h; exact (hs.withSt (Timer.agrees_load _ _ _)).withPc hnext
  | storeRegisters x =>
    refine hs.orRaise h fun m hm hgo => ?_
    cases hgo
    exact ((hs.withMem (State.memWrite_wf hs.memory hm)).withIndex _).withPc hnext
  | loadIntoRegisters x =>
    refine hs.orRaise h fun bytes _ hgo => ?_
    cases hgo
    exact ((hs.withV _).withIndex _).withPc hnext
  | storeDecimalConversion x =>
    refine hs.orRaise h fun m hm hgo => ?_
    cases hgo
    exact (hs.withMem (State.memWrite_wf hs.memory hm)).withPc hnext
  | waitForKey x =>
    rw [exec_waitForKey] at h
    cases h
    exact (((hs.withKeys _).withRelEvent none).withWaitReg (some x)).withPc hnext
  | machineRoutine nnn => cases h; exact hs.withPc hnext
  | _ => cases h; exact (hs.withV _).withPc hnext -- a write of general registers

theorem waitStep_inv (x : Reg) {s : State} (h : s.Inv) : (waitStep x s).Inv := by
  unfold waitStep
  split
  · exact h
  · exact ((h.setReg x _).withWaitReg none).withRelEvent none

theorem stepBlock_inv {s t : State} (hs : s.Inv) (h : stepBlock s = .next t) : t.Inv := by
  rcases stepBlock_cases h with ⟨_, -, rfl⟩ | ⟨-, x, -, rfl⟩ | ⟨-, -, f, -, rfl⟩ | ⟨-, -, i, hd, he⟩
  · exact hs
  · exact waitStep_inv x hs
  · exact hs.withFault _
  · exact exec_inv hs (fetchDecode_executes hd).1 he

theorem tickTimer_inv (which : TimerId) {s : State} (h : s.Inv) : (tickTimer which s).Inv := by
  cases which with
  | delay => exact h.withDt (Timer.agrees_decrement h.delayAgrees)
  | sound => exact h.withSt (Timer.agrees_decrement h.soundAgrees)

theorem setKeyState_inv (k : Key) (pressed : Bool) {s : State} (h : s.Inv) : (setKeyState k pressed s).Inv := by
  cases pressed with
  | true => exact h.withKeys _
  | false => exact (h.withKeys _).withRelEvent _

theorem perform_inv {op : DriverOp} {s t : State} (hs : s.Inv) (h : perform op s = .next t) : t.Inv := by
  cases op with
  | step r => exact stepBlock_inv (hs.of_eq (t := s.withRnd r) rfl rfl rfl rfl rfl rfl) h
  | tickTimer which => cases h; exact tickTimer_inv which hs
  | setKeyState k pressed => cases h; exact setKeyState_inv k pressed hs
  | display => cases h; exact hs
  | timers => cases h; exact hs
  | fault => cases h; exact hs

theorem step_inv {s t : State} (hs : s.Inv) (h : step s = .next t) : t.Inv := by
  unfold step nextOperation at h
  split at h
  · exact stepBlock_inv (hs.of_eq (t := s.drawRandom) rfl rfl rfl rfl rfl rfl) h
  · next rest _ => exact perform_inv (hs.of_eq (t := s.withDriver rest) rfl rfl rfl rfl rfl rfl) h

theorem reset_inv : State.reset.Inv where
  memory := rfl
  delayAgrees := Timer.agrees_atValue _
  soundAgrees := Timer.agrees_atValue _
  pcBound := by decide
  returnBound := fun _ h => absurd h List.not_mem_nil
  stackFits := trivial
  config := rfl

end Sys2Proof.Machine

namespace Sys2Proof

/-- Settles O22: every operation of the driver keeps the invariant, by the rule of each state update. -/
theorem everyStepKeepsTheInvariant : Obligations.EveryStepKeepsTheInvariant :=
  fun _ _ hs h => Machine.step_inv hs h

/-- Settles O20, the invariant's base case. -/
theorem resetMeetsTheInvariant : Obligations.ResetMeetsTheInvariant :=
  ⟨Machine.reset_inv, rfl⟩

end Sys2Proof

/-! ## The frame: what each state update, and with it each instruction, leaves unchanged (R32, R36, R37, R40, R41, R340) -/

namespace Sys2Proof.Machine

/-- The bytes of a checked read (R72). -/
theorem State.memRead_inv {s : State} {addr n : Nat} {bytes : List Byte} (h : s.memRead addr n = .ok bytes) :
    bytes = s.mem.readBytes addr n := by
  unfold State.memRead at h
  split at h
  · cases h
  · cases h; rfl

/-- In Modern mode a transfer leaves `I` where it is (R280, R281). -/
theorem State.indexAfterTransfer_modern {s : State} (x : Reg) (h : s.cfg.quirk ≠ .legacy) :
    s.indexAfterTransfer x = s.index := by
  cases hq : s.cfg.quirk with
  | legacy => exact absurd hq h
  | modern => simp only [State.indexAfterTransfer, hq]

namespace ChangesOnly

variable {p : Footprint} {s t : State}

theorem refl (p : Footprint) (s : State) : ChangesOnly p s s :=
  ⟨fun _ _ => rfl, fun _ => rfl, fun _ => rfl, fun _ _ => rfl, fun _ => rfl, fun _ => rfl, fun _ => rfl, fun _ => rfl,
    fun _ => rfl, fun _ => rfl, fun _ => rfl, rfl, rfl, rfl, rfl⟩

/-- A checked store changes only the bytes it writes (R72). -/
theorem store {bytes : List Byte} {m : Memory} (hm : s.storeOperand bytes = .ok m) (hfirst : p.first = s.index.toNat)
    (hcount : p.count = bytes.length) : ChangesOnly p s (s.withMem m) :=
  { refl p s with
    memory := fun a ha => by
      rw [hfirst, hcount] at ha
      rw [State.withMem_byteAt, (State.memWrite_inv hm).1]
      exact Memory.read_writeBytes_ne _ _ _ ha }

/-- A skip changes `PC` only (R174). -/
theorem skipIf {c : Bool} (ht : Machine.skipIf c s = .next t) : ChangesOnly p s t := by
  rw [skipIf_eq] at ht
  cases ht
  exact { refl p s with }

section Updates

variable (h : ChangesOnly p s t)
include h

theorem withPc (pc : Word) : ChangesOnly p s (t.withPc pc) := { h with }

theorem withV {v : Vector Byte 16} (hv : ∀ r, r ∉ p.regs → (t.withV v).reg r = s.reg r) :
    ChangesOnly p s (t.withV v) := { h with regs := hv }

theorem setReg {x : Reg} (hx : x ∈ p.regs) (b : Byte) : ChangesOnly p s (t.setReg x b) :=
  h.withV fun r hr => by
    have hne : r ≠ x := fun he => hr (he.symm ▸ hx)
    exact (t.reg_setReg x r b).trans ((if_neg hne).trans (h.regs r hr))

theorem setRegAndFlag {x : Reg} (hx : x ∈ p.regs) (hf : vF ∈ p.regs) (b f : Byte) :
    ChangesOnly p s (t.setRegAndFlag x b f) := (h.setReg hx b).setReg hf f

theorem withIndex {i : Word} (hp : p.index = false → i = s.index) : ChangesOnly p s (t.withIndex i) :=
  { h with index := hp }

theorem withStack (hp : p.stack = true) (stack : List Word) : ChangesOnly p s (t.withStack stack) :=
  { h with stack := fun hf => nomatch hp.symm.trans hf }

theorem withDisp (hp : p.disp = true) (d : Display) : ChangesOnly p s (t.withDisp d) :=
  { h with disp := fun hf => nomatch hp.symm.trans hf }

theorem withDt (hp : p.dt = true) (a : Timer) : ChangesOnly p s (t.withDt a) :=
  { h with dt := fun hf => nomatch hp.symm.trans hf }

theorem withSt (hp : p.st = true) (a : Timer) : ChangesOnly p s (t.withSt a) :=
  { h with st := fun hf => nomatch hp.symm.trans hf }

theorem withKeys (hp : p.keys = true) (keys : Vector KeySlot 16) : ChangesOnly p s (t.withKeys keys) :=
  { h with keys := fun hf => nomatch hp.symm.trans hf }

theorem withWaitReg (hp : p.waitReg = true) (w : Option Reg) : ChangesOnly p s (t.withWaitReg w) :=
  { h with waitReg := fun hf => nomatch hp.symm.trans hf }

theorem withRelEvent (hp : p.relEvent = true) (e : Option Key) : ChangesOnly p s (t.withRelEvent e) :=
  { h with relEvent := fun hf => nomatch hp.symm.trans hf }

theorem withFault (hp : p.fault = true) (f : Option Fault) : ChangesOnly p s (t.withFault f) :=
  { h with fault := fun hf => nomatch hp.symm.trans hf }

end Updates

/-- Loading bytes writes only the registers they reach (R281). -/
theorem loaded {bytes : List Byte} (hregs : ∀ r : Reg, r.val < bytes.length → r ∈ p.regs) :
    ChangesOnly p s (s.withV (loadedRegisters s.v bytes)) :=
  (refl p s).withV fun r hr => by
    rw [State.reg_loaded, List.getD_eq_default _ _ (not_lt.mp (mt (hregs r) hr))]

/-- A checked operation that raises changes only `Fault`, so what it goes on to decides (R346). -/
theorem orRaise {α : Type} {r : Except Fault α} {go : α → Result} (hp : p.fault = true)
    (ht : Machine.orRaise r s go = .next t) (hgo : ∀ a, r = .ok a → go a = .next t → ChangesOnly p s t) :
    ChangesOnly p s t := by
  rcases orRaise_cases ht with ⟨a, ha, hnext⟩ | ⟨f, -, rfl⟩
  · exact hgo a ha hnext
  · exact (refl p s).withFault hp _

end ChangesOnly

/-- What an instruction may change besides `PC` in the state it is executed in: the writers of R32, R36, R37, R40 and R41,
the bytes of R280 and R282, and the instructions R340 lets raise a fault. -/
def State.footprint (s : State) : Instr → Footprint
  | .call _ => { stack := true, fault := true }
  | .ret => { stack := true, fault := true }
  | .skipKey _ => { fault := true }
  | .skipNotKey _ => { fault := true }
  | .setIndexWithAddress _ => { index := true }
  | .setIndexWithSpriteAddress _ => { index := true }
  | .addIndexWithVariable _ => { index := true }
  | .clearScreen => { disp := true }
  | .draw _ _ _ => { regs := [vF], disp := true, fault := true }
  | .setDelayTimer _ => { dt := true }
  | .setSoundTimer _ => { st := true }
  | .storeRegisters x =>
    { index := s.cfg.quirk == .legacy, first := s.index.toNat, count := x.val + 1, fault := true }
  | .loadIntoRegisters x =>
    { regs := (List.finRange 16).filter (· ≤ x), index := s.cfg.quirk == .legacy, fault := true }
  | .storeDecimalConversion _ => { first := s.index.toNat, count := 3, fault := true }
  | .waitForKey _ => { keys := true, waitReg := true, relEvent := true }
  | i => { regs := writtenRegs i }

theorem State.footprint_regs (s : State) (i : Instr) : (s.footprint i).regs = writtenRegs i := by
  cases i <;> rfl

/-- The frame of every instruction. -/
theorem exec_changesOnly {i : Instr} {s t : State} (h : exec i s = .next t) : ChangesOnly (s.footprint i) s t := by
  have hrefl := ChangesOnly.refl (s.footprint i) s
  have hindex (x : Reg) (hq : (s.cfg.quirk == .legacy) = false) : s.indexAfterTransfer x = s.index :=
    s.indexAfterTransfer_modern x (by simpa using hq)
  cases i with
  | call nnn =>
    refine .orRaise rfl h fun stack _ hgo => ?_
    cases hgo; exact (hrefl.withStack rfl _).withPc _
  | ret =>
    refine .orRaise rfl h fun popped _ hgo => ?_
    cases hgo; exact (hrefl.withStack rfl _).withPc _
  | jump nnn => cases h; exact hrefl.withPc _
  | jumpOffset nnn register => cases h; exact hrefl.withPc _
  | skipEqualByte x nn => exact .skipIf h
  | skipNotEqualByte x nn => exact .skipIf h
  | skipEqualVariable x y => exact .skipIf h
  | skipNotEqualVariable x y => exact .skipIf h
  | skipKey x => exact .orRaise rfl h fun _ _ hgo => .skipIf hgo
  | skipNotKey x => exact .orRaise rfl h fun _ _ hgo => .skipIf hgo
  | setIndexWithAddress nnn => cases h; exact (hrefl.withIndex nofun).withPc _
  | setIndexWithSpriteAddress x => cases h; exact (hrefl.withIndex nofun).withPc _
  | addIndexWithVariable x => cases h; exact (hrefl.withIndex nofun).withPc _
  | addWithVariable x y => cases h; exact (hrefl.setRegAndFlag (.head _) (.tail _ (.head _)) _ _).withPc _
  | subWithVariable x y => cases h; exact (hrefl.setRegAndFlag (.head _) (.tail _ (.head _)) _ _).withPc _
  | subWithVariableNot x y => cases h; exact (hrefl.setRegAndFlag (.head _) (.tail _ (.head _)) _ _).withPc _
  | shiftRight x y => cases h; exact (hrefl.setRegAndFlag (.head _) (.tail _ (.head _)) _ _).withPc _
  | shiftLeft x y => cases h; exact (hrefl.setRegAndFlag (.head _) (.tail _ (.head _)) _ _).withPc _
  | clearScreen => cases h; exact (hrefl.withDisp rfl _).withPc _
  | draw x y n =>
    refine .orRaise rfl h fun rows _ hgo => ?_
    cases hgo
    exact ((hrefl.withDisp rfl _).setReg (.head _) _).withPc _
  | setDelayTimer x => cases h; exact (hrefl.withDt rfl _).withPc _
  | setSoundTimer x => cases h; exact (hrefl.withSt rfl _).withPc _
  | storeRegisters x =>
    refine .orRaise rfl h fun m hm hgo => ?_
    cases hgo
    exact ((ChangesOnly.store hm rfl (s.firstRegisters_length x).symm).withIndex (hindex x)).withPc _
  | loadIntoRegisters x =>
    refine .orRaise rfl h fun bytes hb hgo => ?_
    cases hgo
    have hlength : bytes.length = x.val + 1 := by rw [State.memRead_inv hb, Memory.length_readBytes]
    have hregs : ∀ r : Reg, r.val < bytes.length → r ∈ (List.finRange 16).filter (· ≤ x) := fun r hr => by
      rw [List.mem_filter, decide_eq_true_iff, Fin.le_iff_val_le_val]
      exact ⟨List.mem_finRange r, by omega⟩
    exact ((ChangesOnly.loaded hregs).withIndex (hindex x)).withPc _
  | storeDecimalConversion x =>
    refine .orRaise rfl h fun m hm hgo => ?_
    cases hgo
    exact (ChangesOnly.store hm rfl rfl).withPc _
  | waitForKey x =>
    rw [exec_waitForKey] at h
    cases h
    exact (((hrefl.withKeys rfl _).withRelEvent rfl _).withWaitReg rfl _).withPc _
  | machineRoutine nnn => cases h; exact hrefl.withPc _
  | _ => cases h; exact (hrefl.setReg (.head _) _).withPc _ -- one register is written

/-- The frame of a wait step (R304, R305). -/
theorem waitStep_changesOnly (x : Reg) (s : State) :
    ChangesOnly { regs := [x], waitReg := true, relEvent := true } s (waitStep x s) := by
  have hrefl := ChangesOnly.refl { regs := [x], waitReg := true, relEvent := true } s
  unfold waitStep
  split
  · exact hrefl
  · exact ((hrefl.setReg (.head _) _).withWaitReg rfl _).withRelEvent rfl _

/-- The frame of the driver's operations other than a step (R160, R262, R300). -/
theorem perform_changesOnly {op : DriverOp} {s t : State} (hop : ∀ r, op ≠ .step r) (h : perform op s = .next t) :
    ChangesOnly { dt := true, st := true, keys := true, relEvent := true } s t := by
  have hrefl := ChangesOnly.refl { dt := true, st := true, keys := true, relEvent := true } s
  cases op with
  | step r => exact absurd rfl (hop r)
  | tickTimer which =>
    cases h
    cases which with
    | delay => exact hrefl.withDt rfl _
    | sound => exact hrefl.withSt rfl _
  | setKeyState k pressed =>
    cases h
    cases pressed with
    | true => exact hrefl.withKeys rfl _
    | false => exact (hrefl.withKeys rfl _).withRelEvent rfl _
  | display => cases h; exact hrefl
  | timers => cases h; exact hrefl
  | fault => cases h; exact hrefl

end Sys2Proof.Machine

namespace Sys2Proof

/-- Settles O26, from the three frames. -/
theorem onlyTheNamedRegistersAreWritten : Obligations.OnlyTheNamedRegistersAreWritten := by
  refine ⟨fun i s t r h hr => ?_, fun x r s hr => ?_, fun op s t hop h r => ?_⟩
  · exact (Machine.exec_changesOnly h).regs r (by rwa [Machine.State.footprint_regs])
  · exact (Machine.waitStep_changesOnly x s).regs r (by simpa using hr)
  · exact (Machine.perform_changesOnly hop h).regs r List.not_mem_nil

/-- Settles O27: the display is in the footprint of ClearScreen and Draw only. -/
theorem onlyClearScreenAndDrawChangeTheDisplay : Obligations.OnlyClearScreenAndDrawChangeTheDisplay := by
  refine ⟨fun i s t h hdisp => ?_, fun x s => (Machine.waitStep_changesOnly x s).disp rfl,
    fun op s t hop h => (Machine.perform_changesOnly hop h).disp rfl⟩
  have hframe := Machine.exec_changesOnly h
  cases i with
  | clearScreen => exact .inl rfl
  | draw x y n => exact .inr ⟨x, y, n, rfl⟩
  | _ => exact absurd (hframe.disp rfl) hdisp

/-- Settles O29: `I` and the stack are in the footprints of the instructions named only, and `I` in those of the transfers
in Legacy mode only. -/
theorem onlyTheNamedInstructionsWriteIndexAndStack : Obligations.OnlyTheNamedInstructionsWriteIndexAndStack := by
  intro i s t h
  have hframe := Machine.exec_changesOnly h
  refine ⟨fun hindex => ?_, fun hstack => ?_⟩
  · have hlegacy (hmodern : (s.cfg.quirk == .legacy) = false → t.index = s.index) : s.cfg.quirk = .legacy := by
      by_contra hq
      exact hindex (hmodern (by simpa using hq))
    cases i with
    | setIndexWithAddress nnn => exact .inl ⟨nnn, rfl⟩
    | setIndexWithSpriteAddress x => exact .inr (.inl ⟨x, rfl⟩)
    | addIndexWithVariable x => exact .inr (.inr (.inl ⟨x, rfl⟩))
    | storeRegisters x => exact .inr (.inr (.inr ⟨hlegacy hframe.index, .inl ⟨x, rfl⟩⟩))
    | loadIntoRegisters x => exact .inr (.inr (.inr ⟨hlegacy hframe.index, .inr ⟨x, rfl⟩⟩))
    | _ => exact absurd (hframe.index rfl) hindex
  · cases i with
    | call nnn => exact .inl ⟨nnn, rfl⟩
    | ret => exact .inr rfl
    | _ => exact absurd (hframe.stack rfl) hstack

/-- Settles O30: each of these elements is in the footprints of the instructions named only. -/
theorem onlyTheNamedInstructionsWriteDevicesAndFault : Obligations.OnlyTheNamedInstructionsWriteDevicesAndFault := by
  intro i s t h
  have hframe := Machine.exec_changesOnly h
  refine ⟨fun hdt => ?_, fun hst => ?_, fun hinput => ?_, fun hfault => ?_, hframe.cfg⟩
  · cases i with
    | setDelayTimer x => exact ⟨x, rfl⟩
    | _ => exact absurd (hframe.dt rfl) hdt
  · cases i with
    | setSoundTimer x => exact ⟨x, rfl⟩
    | _ => exact absurd (hframe.st rfl) hst
  · cases i with
    | waitForKey x => exact ⟨x, rfl⟩
    | _ =>
      rcases hinput with hkeys | hwait | hevent
      · exact absurd (hframe.keys rfl) hkeys
      · exact absurd (hframe.waitReg rfl) hwait
      · exact absurd (hframe.relEvent rfl) hevent
  · cases i with
    | call | ret | skipKey | skipNotKey | draw | storeRegisters | loadIntoRegisters | storeDecimalConversion => simp
    | _ => exact absurd (hframe.fault rfl) hfault

end Sys2Proof

/-! ## Keys: `AlreadyPressed` and `NotPressed` look alike to an instruction (R44) -/

namespace Sys2Proof.Machine

theorem orRaise_answers {α : Type} (r : Except Fault α) (s : State) {go : α → Result} (h : ∀ a, ∃ t, go a = .next t) :
    ∃ t, orRaise r s go = .next t := by
  cases r with
  | ok a => exact h a
  | error f => exact ⟨_, rfl⟩

theorem skipIf_answers (c : Bool) (s : State) : ∃ t, skipIf c s = .next t := ⟨_, skipIf_eq c s⟩

/-- Every instruction answers a next state, a raised fault included (R158, log 7). -/
theorem exec_answers (i : Instr) (s : State) : ∃ t, exec i s = .next t := by
  cases i with
  | call nnn => exact orRaise_answers _ s fun _ => ⟨_, rfl⟩
  | ret => exact orRaise_answers _ s fun _ => ⟨_, rfl⟩
  | skipEqualByte x nn => exact skipIf_answers _ s
  | skipNotEqualByte x nn => exact skipIf_answers _ s
  | skipEqualVariable x y => exact skipIf_answers _ s
  | skipNotEqualVariable x y => exact skipIf_answers _ s
  | skipKey x => exact orRaise_answers _ s fun _ => skipIf_answers _ s
  | skipNotKey x => exact orRaise_answers _ s fun _ => skipIf_answers _ s
  | draw x y n => exact orRaise_answers _ s fun _ => ⟨_, rfl⟩
  | storeRegisters x => exact orRaise_answers _ s fun _ => ⟨_, rfl⟩
  | loadIntoRegisters x => exact orRaise_answers _ s fun _ => ⟨_, rfl⟩
  | storeDecimalConversion x => exact orRaise_answers _ s fun _ => ⟨_, rfl⟩
  | waitForKey x => exact ⟨_, exec_waitForKey s x⟩
  | _ => exact ⟨_, rfl⟩

theorem KeySlot.hold_ne_pressed (slot : KeySlot) : slot.hold ≠ .pressed := by cases slot <;> decide

/-- `WaitForKey` leaves no key `Pressed` (R303). -/
theorem heldKeys_ne_pressed (keys : Vector KeySlot 16) (k : Key) : (heldKeys keys)[k] ≠ .pressed := by
  simpa [heldKeys] using keys[k].hold_ne_pressed

section WithKeys

variable (s : State) (keys : Vector KeySlot 16)

theorem skipIf_withKeys (c : Bool) : skipIf c (s.withKeys keys) = mapNext (·.withKeys keys) (skipIf c s) := by
  rw [skipIf_eq, skipIf_eq]; rfl

/-- A checked operation ignores the key slots, whether it goes on or raises, when what it goes on to ignores them. -/
theorem orRaise_withKeys {α : Type} (r : Except Fault α) {go go' : α → Result}
    (h : ∀ a, go' a = mapNext (·.withKeys keys) (go a)) :
    orRaise r (s.withKeys keys) go' = mapNext (·.withKeys keys) (orRaise r s go) := by
  cases r with
  | ok a => exact h a
  | error f => rfl

/-- An instruction that holds no keys reads of a key slot at most whether it is `Pressed` (R179, R180). -/
theorem exec_withKeys (hkeys : ∀ k : Key, keys[k] = .pressed ↔ s.key k = .pressed) (i : Instr)
    (hwait : ∀ x, i ≠ .waitForKey x) :
    exec i (s.withKeys keys) = mapNext (·.withKeys keys) (exec i s) := by
  have hpressed (k : Key) : ((s.withKeys keys).key k == .pressed) = (s.key k == .pressed) := by
    rw [Bool.eq_iff_iff, beq_iff_eq, beq_iff_eq]; exact hkeys k
  cases i with
  | waitForKey x => exact absurd rfl (hwait x)
  | skipKey x =>
    refine orRaise_withKeys s keys (s.keyOperand x) fun k => ?_
    rw [hpressed]; exact skipIf_withKeys s keys _
  | skipNotKey x =>
    refine orRaise_withKeys s keys (s.keyOperand x) fun k => ?_
    rw [bne, hpressed]; exact skipIf_withKeys s keys _
  | call nnn => exact orRaise_withKeys s keys (s.push (s.pc + 2)) fun _ => rfl
  | ret => exact orRaise_withKeys s keys s.pop fun _ => rfl
  | skipEqualByte x nn => exact skipIf_withKeys s keys (s.reg x == nn)
  | skipNotEqualByte x nn => exact skipIf_withKeys s keys (s.reg x != nn)
  | skipEqualVariable x y => exact skipIf_withKeys s keys (s.reg x == s.reg y)
  | skipNotEqualVariable x y => exact skipIf_withKeys s keys (s.reg x != s.reg y)
  | draw x y n => exact orRaise_withKeys s keys (s.readOperand n.toNat) fun _ => rfl
  | storeRegisters x => exact orRaise_withKeys s keys (s.storeOperand (s.firstRegisters x)) fun _ => rfl
  | loadIntoRegisters x => exact orRaise_withKeys s keys (s.readOperand (x.val + 1)) fun _ => rfl
  | storeDecimalConversion x => exact orRaise_withKeys s keys (s.storeOperand (decimalDigits (s.reg x))) fun _ => rfl
  | _ => rfl -- an unconditional update that reads no key slot

end WithKeys

/-- `WaitForKey` from two states that differ in their key slots only: no slot of either answer is `Pressed` (R303). -/
theorem exec_waitForKey_withKeys (x : Reg) (s : State) (keys : Vector KeySlot 16) :
    ∃ t t', exec (.waitForKey x) s = .next t ∧ exec (.waitForKey x) (s.withKeys keys) = .next t' ∧
      t' = t.withKeys t'.keys ∧ ∀ k : Key, t'.key k = .pressed ↔ t.key k = .pressed :=
  ⟨_, _, exec_waitForKey s x, exec_waitForKey (s.withKeys keys) x, rfl,
    fun k => iff_of_false (heldKeys_ne_pressed keys k) (heldKeys_ne_pressed s.keys k)⟩

end Sys2Proof.Machine

namespace Sys2Proof

/-- Settles O25: WaitForKey leaves no slot `Pressed`; every other instruction leaves the slots alone and reads of them only
whether they are `Pressed`. -/
theorem alreadyPressedLooksNotPressed : Obligations.AlreadyPressedLooksNotPressed := by
  intro i s keys hkeys
  by_cases hi : ∃ x, i = .waitForKey x
  · obtain ⟨x, rfl⟩ := hi
    exact Machine.exec_waitForKey_withKeys x s keys
  · obtain ⟨t, ht⟩ := Machine.exec_answers i s
    have ht' := Machine.exec_withKeys s keys hkeys i fun x hx => hi ⟨x, hx⟩
    rw [ht] at ht'
    obtain ⟨-, -, hinput, -⟩ := onlyTheNamedInstructionsWriteDevicesAndFault i s t ht
    have hsame : t.keys = s.keys := by
      by_contra hne
      exact hi (hinput (.inl hne))
    refine ⟨t, t.withKeys keys, ht, ht', rfl, fun k => ?_⟩
    rw [Machine.State.key, Machine.State.key, hsame]
    exact hkeys k

end Sys2Proof

/-! ## The state after reset (R64) -/

namespace Sys2Proof.Machine

/-- Past the font an unlisted byte is 0 (R59). -/
theorem unlistedByte_of_le {a : Nat} (h : 80 ≤ a) : unlistedByte a = 0 := List.getD_eq_default _ _ h

theorem reset_reg (r : Reg) : State.reset.reg r = 0 := Vector.getElem_replicate _

theorem reset_key (k : Key) : State.reset.key k = .notPressed := Vector.getElem_replicate _

end Sys2Proof.Machine

namespace Sys2Proof

/-- Settles O18: memory lists nothing after reset, so it reads as the font and then as zeros. -/
theorem resetStateIsAsTheSummaryTable : Obligations.ResetStateIsAsTheSummaryTable :=
  ⟨rfl, Machine.reset_reg, rfl, rfl, rfl, fun _ ha => Machine.unlistedByte_of_le ha, Machine.pixel_blank, rfl, rfl,
    Machine.reset_key, rfl, rfl, rfl⟩

end Sys2Proof

/-! ## The frame of memory (R70, R79, R283) -/

namespace Sys2Proof.Machine

/-- A byte that differs after a checked store at `I` is one the store writes, and the store has passed the range check
(R72, R283). -/
theorem State.range_of_store_byteAt_ne {s t : State} {bytes : List Byte} {go : Memory → Result} {a : Nat}
    (h : orRaise (s.storeOperand bytes) s go = .next t) (hgo : ∀ m u, go m = .next u → u.mem = m)
    (hne : t.byteAt a ≠ s.byteAt a) :
    s.index.toNat ≤ a ∧ a < s.index.toNat + bytes.length ∧ a < 4096 := by
  rcases orRaise_cases h with ⟨m, hm, hnext⟩ | ⟨f, -, rfl⟩
  · obtain ⟨hwritten, hrange⟩ : m = s.mem.writeBytes s.index.toNat bytes ∧
        (bytes.length = 0 ∨ s.index.toNat + bytes.length ≤ 4096) := State.memWrite_inv hm
    have hin : ¬ (a < s.index.toNat ∨ s.index.toNat + bytes.length ≤ a) := fun hout => hne <| by
      rw [State.byteAt, hgo m t hnext, hwritten]
      exact Memory.read_writeBytes_ne _ _ _ hout
    omega
  · exact absurd rfl hne -- a raise leaves memory alone

theorem waitStep_mem (x : Reg) (s : State) : (waitStep x s).mem = s.mem := by
  unfold waitStep
  split <;> rfl

theorem perform_mem {op : DriverOp} {s t : State} (hop : ∀ r, op ≠ .step r) (h : perform op s = .next t) :
    t.mem = s.mem := by
  cases op with
  | step r => exact absurd rfl (hop r)
  | tickTimer which => cases h; cases which <;> rfl
  | setKeyState k pressed => cases h; cases pressed <;> rfl
  | display | timers | fault => cases h; rfl

end Sys2Proof.Machine

namespace Sys2Proof

/-- Settles O28: the two stores write at most 16 bytes at `I`, range-checked; no other instruction has a byte of memory in
its footprint. -/
theorem onlyTheTwoStoresChangeMemory : Obligations.OnlyTheTwoStoresChangeMemory := by
  refine ⟨fun i s t a h hne => ?_, Machine.waitStep_mem, fun op s t => Machine.perform_mem⟩
  cases i with
  | storeRegisters x =>
    rw [Machine.exec_storeRegisters] at h
    obtain ⟨hlow, hhigh, hsize⟩ := Machine.State.range_of_store_byteAt_ne h (fun m u hu => by cases hu; rfl) hne
    rw [Machine.State.firstRegisters_length] at hhigh
    exact ⟨.inl ⟨x, rfl⟩, hlow, by omega, hsize⟩
  | storeDecimalConversion x =>
    rw [Machine.exec_storeDecimalConversion] at h
    obtain ⟨hlow, hhigh, hsize⟩ := Machine.State.range_of_store_byteAt_ne h (fun m u hu => by cases hu; rfl) hne
    have hlength : (Machine.decimalDigits (s.reg x)).length = 3 := rfl
    exact ⟨.inr ⟨x, rfl⟩, hlow, by omega, hsize⟩
  | _ => exact absurd ((Machine.exec_changesOnly h).memory a (.inr (Nat.zero_le a))) hne

end Sys2Proof

/-! ## Decoding by the opcode table (R110 to R113) -/

namespace Sys2Proof

open Machine (RowSelects)
open Laws

theorem decode_group0 (q : Quirk) {op : Word} (h : opA op = 0x0) : decode q op = .ok (decodeGroup0 op) := by
  rw [decode, h]; rfl

theorem decode_group8 (q : Quirk) {op : Word} (h : opA op = 0x8) : decode q op = decodeGroup8 q op := by
  rw [decode, h]; rfl

theorem decode_groupE (q : Quirk) {op : Word} (h : opA op = 0xE) : decode q op = decodeGroupE op := by
  rw [decode, h]; rfl

theorem decode_groupF (q : Quirk) {op : Word} (h : opA op = 0xF) : decode q op = decodeGroupF op := by
  rw [decode, h]; rfl

/-! ### From the fields a row fixes to its mask and match -/

section

variable {build : Quirk → Word → Instr}

theorem selects_group {a : Nibble} (h : ∀ q op, opA op = a → decode q op = .ok (build q op)) :
    RowSelects 0xF000 (packXYN a 0 0 0) build :=
  fun q op hmask => h q op (opA_of_mask hmask)

theorem selects_groupXY {a : Nibble} (h : ∀ q op, opA op = a → opD op = 0x0 → decode q op = .ok (build q op)) :
    RowSelects 0xF00F (packXYN a 0 0 0x0) build := fun q op hmask =>
  let ⟨hA, hD⟩ := opAD_of_mask hmask
  h q op hA hD

theorem selects_group8 {d : Nibble} (h : ∀ q op, opD op = d → decodeGroup8 q op = .ok (build q op)) :
    RowSelects 0xF00F (packXYN 0x8 0 0 d) build := fun q op hmask =>
  let ⟨hA, hD⟩ := opAD_of_mask hmask
  (decode_group8 q hA).trans (h q op hD)

theorem selects_groupE {nn : Byte} (h : ∀ q op, opNN op = nn → decodeGroupE op = .ok (build q op)) :
    RowSelects 0xF0FF (packXNN 0xE 0 nn) build := fun q op hmask =>
  let ⟨hA, hNN⟩ := opANN_of_mask hmask
  (decode_groupE q hA).trans (h q op hNN)

theorem selects_groupF {nn : Byte} (h : ∀ q op, opNN op = nn → decodeGroupF op = .ok (build q op)) :
    RowSelects 0xF0FF (packXNN 0xF 0 nn) build := fun q op hmask =>
  let ⟨hA, hNN⟩ := opANN_of_mask hmask
  (decode_groupF q hA).trans (h q op hNN)

end

/-! ### The rows of R112, group by group -/

/-- A match under `0xFFFF` is the word itself (R112). -/
theorem eq_of_mask_FFFF {op pattern : Word} (h : op &&& 0xFFFF = pattern) : op = pattern :=
  (BitVec.and_allOnes (x := op)).symm.trans h

theorem selects_clearScreen : RowSelects 0xFFFF 0x00E0 (fun _ _ => .clearScreen) := fun _ _ h => by
  rw [eq_of_mask_FFFF h]; rfl

theorem selects_ret : RowSelects 0xFFFF 0x00EE (fun _ _ => .ret) := fun _ _ h => by
  rw [eq_of_mask_FFFF h]; rfl

/-- Row 35, over which the two fixed words take priority (R111). -/
theorem decode_machineRoutine (q : Quirk) (op : Word) (hmask : op &&& 0xF000 = 0x0000) (hclear : op ≠ 0x00E0)
    (hret : op ≠ 0x00EE) : decode q op = .ok (.machineRoutine (opNNN op)) := by
  rw [decode_group0 q (opA_of_mask (a := 0x0) hmask), decodeGroup0, if_neg hclear, if_neg hret]

theorem selects_skipEqualVariable : RowSelects 0xF00F 0x5000 (fun _ op => .skipEqualVariable (opX op) (opY op)) :=
  selects_groupXY (a := 0x5) fun q op hA hD => by rw [decode, hA]; exact if_pos hD

theorem selects_skipNotEqualVariable : RowSelects 0xF00F 0x9000 (fun _ op => .skipNotEqualVariable (opX op) (opY op)) :=
  selects_groupXY (a := 0x9) fun q op hA hD => by rw [decode, hA]; exact if_pos hD

theorem selects_jump : RowSelects 0xF000 0x1000 (fun _ op => .jump (opNNN op)) :=
  selects_group (a := 0x1) fun q op h => by rw [decode, h]; rfl

theorem selects_call : RowSelects 0xF000 0x2000 (fun _ op => .call (opNNN op)) :=
  selects_group (a := 0x2) fun q op h => by rw [decode, h]; rfl

theorem selects_skipEqualByte : RowSelects 0xF000 0x3000 (fun _ op => .skipEqualByte (opX op) (opNN op)) :=
  selects_group (a := 0x3) fun q op h => by rw [decode, h]; rfl

theorem selects_skipNotEqualByte : RowSelects 0xF000 0x4000 (fun _ op => .skipNotEqualByte (opX op) (opNN op)) :=
  selects_group (a := 0x4) fun q op h => by rw [decode, h]; rfl

theorem selects_setWithByte : RowSelects 0xF000 0x6000 (fun _ op => .setWithByte (opX op) (opNN op)) :=
  selects_group (a := 0x6) fun q op h => by rw [decode, h]; rfl

theorem selects_addWithByte : RowSelects 0xF000 0x7000 (fun _ op => .addWithByte (opX op) (opNN op)) :=
  selects_group (a := 0x7) fun q op h => by rw [decode, h]; rfl

theorem selects_setIndexWithAddress : RowSelects 0xF000 0xA000 (fun _ op => .setIndexWithAddress (opNNN op)) :=
  selects_group (a := 0xA) fun q op h => by rw [decode, h]; rfl

theorem selects_jumpOffset : RowSelects 0xF000 0xB000 (fun q op => .jumpOffset (opNNN op) (jumpOffsetField q op)) :=
  selects_group (a := 0xB) fun q op h => by rw [decode, h]; rfl

theorem selects_randomAnd : RowSelects 0xF000 0xC000 (fun _ op => .randomAnd (opX op) (opNN op)) :=
  selects_group (a := 0xC) fun q op h => by rw [decode, h]; rfl

theorem selects_draw : RowSelects 0xF000 0xD000 (fun _ op => .draw (opX op) (opY op) (opD op)) :=
  selects_group (a := 0xD) fun q op h => by rw [decode, h]; rfl

theorem selects_setWithVariable : RowSelects 0xF00F 0x8000 (fun _ op => .setWithVariable (opX op) (opY op)) :=
  selects_group8 (d := 0x0) fun q op h => by rw [decodeGroup8, h]; rfl

theorem selects_or : RowSelects 0xF00F 0x8001 (fun _ op => .or (opX op) (opY op)) :=
  selects_group8 (d := 0x1) fun q op h => by rw [decodeGroup8, h]; rfl

theorem selects_and : RowSelects 0xF00F 0x8002 (fun _ op => .and (opX op) (opY op)) :=
  selects_group8 (d := 0x2) fun q op h => by rw [decodeGroup8, h]; rfl

theorem selects_xor : RowSelects 0xF00F 0x8003 (fun _ op => .xor (opX op) (opY op)) :=
  selects_group8 (d := 0x3) fun q op h => by rw [decodeGroup8, h]; rfl

theorem selects_addWithVariable : RowSelects 0xF00F 0x8004 (fun _ op => .addWithVariable (opX op) (opY op)) :=
  selects_group8 (d := 0x4) fun q op h => by rw [decodeGroup8, h]; rfl

theorem selects_subWithVariable : RowSelects 0xF00F 0x8005 (fun _ op => .subWithVariable (opX op) (opY op)) :=
  selects_group8 (d := 0x5) fun q op h => by rw [decodeGroup8, h]; rfl

theorem selects_shiftRight : RowSelects 0xF00F 0x8006 (fun q op => .shiftRight (opX op) (shiftField q op)) :=
  selects_group8 (d := 0x6) fun q op h => by rw [decodeGroup8, h]; rfl

theorem selects_subWithVariableNot : RowSelects 0xF00F 0x8007 (fun _ op => .subWithVariableNot (opX op) (opY op)) :=
  selects_group8 (d := 0x7) fun q op h => by rw [decodeGroup8, h]; rfl

theorem selects_shiftLeft : RowSelects 0xF00F 0x800E (fun q op => .shiftLeft (opX op) (shiftField q op)) :=
  selects_group8 (d := 0xE) fun q op h => by rw [decodeGroup8, h]; rfl

theorem selects_skipKey : RowSelects 0xF0FF 0xE09E (fun _ op => .skipKey (opX op)) :=
  selects_groupE (nn := 0x9E) fun _ op h => by rw [decodeGroupE, h]; rfl

theorem selects_skipNotKey : RowSelects 0xF0FF 0xE0A1 (fun _ op => .skipNotKey (opX op)) :=
  selects_groupE (nn := 0xA1) fun _ op h => by rw [decodeGroupE, h]; rfl

theorem selects_setVariableWithDelayTimer : RowSelects 0xF0FF 0xF007
    (fun _ op => .setVariableWithDelayTimer (opX op)) :=
  selects_groupF (nn := 0x07) fun _ op h => by rw [decodeGroupF, h]; rfl

theorem selects_waitForKey : RowSelects 0xF0FF 0xF00A (fun _ op => .waitForKey (opX op)) :=
  selects_groupF (nn := 0x0A) fun _ op h => by rw [decodeGroupF, h]; rfl

theorem selects_setDelayTimer : RowSelects 0xF0FF 0xF015 (fun _ op => .setDelayTimer (opX op)) :=
  selects_groupF (nn := 0x15) fun _ op h => by rw [decodeGroupF, h]; rfl

theorem selects_setSoundTimer : RowSelects 0xF0FF 0xF018 (fun _ op => .setSoundTimer (opX op)) :=
  selects_groupF (nn := 0x18) fun _ op h => by rw [decodeGroupF, h]; rfl

theorem selects_addIndexWithVariable : RowSelects 0xF0FF 0xF01E (fun _ op => .addIndexWithVariable (opX op)) :=
  selects_groupF (nn := 0x1E) fun _ op h => by rw [decodeGroupF, h]; rfl

theorem selects_setIndexWithSpriteAddress : RowSelects 0xF0FF 0xF029
    (fun _ op => .setIndexWithSpriteAddress (opX op)) :=
  selects_groupF (nn := 0x29) fun _ op h => by rw [decodeGroupF, h]; rfl

theorem selects_storeDecimalConversion : RowSelects 0xF0FF 0xF033 (fun _ op => .storeDecimalConversion (opX op)) :=
  selects_groupF (nn := 0x33) fun _ op h => by rw [decodeGroupF, h]; rfl

theorem selects_storeRegisters : RowSelects 0xF0FF 0xF055 (fun _ op => .storeRegisters (opX op)) :=
  selects_groupF (nn := 0x55) fun _ op h => by rw [decodeGroupF, h]; rfl

theorem selects_loadIntoRegisters : RowSelects 0xF0FF 0xF065 (fun _ op => .loadIntoRegisters (opX op)) :=
  selects_groupF (nn := 0x65) fun _ op h => by rw [decodeGroupF, h]; rfl

/-- Settles O2: each row is a branch of the decoder, reached by the fields the row's mask and match fix. -/
theorem everyRowOfTheTableDecodes : Obligations.EveryRowOfTheTableDecodes :=
  ⟨selects_call, selects_ret, selects_jump, selects_jumpOffset, selects_skipEqualByte, selects_skipNotEqualByte,
    selects_skipEqualVariable, selects_skipNotEqualVariable, selects_skipKey, selects_skipNotKey,
    selects_setWithByte, selects_setWithVariable, selects_setIndexWithAddress, selects_setIndexWithSpriteAddress,
    selects_addWithByte, selects_addWithVariable, selects_addIndexWithVariable, selects_subWithVariable,
    selects_subWithVariableNot, selects_shiftRight, selects_shiftLeft, selects_or, selects_and, selects_xor,
    selects_clearScreen, selects_draw, selects_setVariableWithDelayTimer, selects_setDelayTimer,
    selects_setSoundTimer, selects_storeRegisters, selects_loadIntoRegisters, selects_storeDecimalConversion,
    selects_waitForKey, selects_randomAnd, decode_machineRoutine⟩

/-- Settles O1 by evaluating the decoder on each word. -/
theorem sampleWordsDecodeToTheirVariants : Obligations.SampleWordsDecodeToTheirVariants := by
  intro q
  cases q <;> decide

/-! ## Decoding an encoded instruction (R117) -/

section

variable {q : Quirk} {nnn : Addr} {x : Reg} {y register : Option Reg}

/-- A well-formed `JumpOffset` carries the register the decoder reads from its word (R106). -/
theorem jumpOffsetField_packNNN (a : Nibble) (h : jumpOffsetFormOk q nnn register = true) :
    jumpOffsetField q (packNNN a nnn) = register := by
  cases q with
  | legacy => exact (Option.isNone_iff_eq_none.mp h).symm
  | modern => exact (congrArg some (opX_packNNN a nnn)).trans (eq_of_beq h).symm

/-- A well-formed shift carries the register the decoder reads from its word (R106). -/
theorem shiftField_packXYN (a d : Nibble) (h : shiftFormOk q y = true) :
    shiftField q (packXYN a x (y.getD 0) d) = y := by
  cases q with
  | legacy =>
    obtain ⟨r, rfl⟩ := Option.isSome_iff_exists.mp h
    exact congrArg some (opY_packXYN a x r d)
  | modern => exact (Option.isNone_iff_eq_none.mp h).symm

theorem decode_encode_machineRoutine (hclear : nnn ≠ 0x0E0) (hret : nnn ≠ 0x0EE) :
    decode q (encode (.machineRoutine nnn)) = .ok (.machineRoutine nnn) := by
  have hfield : opNNN (encode (.machineRoutine nnn)) = nnn := opNNN_packNNN 0x0 nnn
  rw [decode_machineRoutine q _ (Laws.MatchesItsRow.machineRoutine nnn), hfield]
  · exact fun h => hclear (hfield.symm.trans (congrArg opNNN h))
  · exact fun h => hret (hfield.symm.trans (congrArg opNNN h))

end

/-- An instruction's word decodes to it when it matches a row and the row reads back the instruction's fields. -/
theorem decode_encode_of_row {q : Quirk} {i : Instr} {mask pattern : Word} {build : Quirk → Word → Instr}
    (hrow : RowSelects mask pattern build) (hmatch : encode i &&& mask = pattern)
    (hfields : build q (encode i) = i := by simp [encode]) : decode q (encode i) = .ok i :=
  (hrow q _ hmatch).trans (congrArg Except.ok hfields)

/-- Settles O3: an instruction's word matches its row of R112, and the fields it packs are those the row reads. -/
theorem decodeOfEncodeGivesTheInstruction : Obligations.DecodeOfEncodeGivesTheInstruction := by
  intro q i hwf
  cases i with
  | call nnn => exact decode_encode_of_row selects_call (MatchesItsRow.call nnn)
  | ret => exact decode_encode_of_row selects_ret MatchesItsRow.ret
  | jump nnn => exact decode_encode_of_row selects_jump (MatchesItsRow.jump nnn)
  | jumpOffset nnn register =>
    exact decode_encode_of_row selects_jumpOffset (MatchesItsRow.jumpOffset nnn register)
      (congrArg₂ Instr.jumpOffset (opNNN_packNNN 0xB nnn) (jumpOffsetField_packNNN 0xB hwf))
  | skipEqualByte x nn => exact decode_encode_of_row selects_skipEqualByte (MatchesItsRow.skipEqualByte x nn)
  | skipNotEqualByte x nn =>
    exact decode_encode_of_row selects_skipNotEqualByte (MatchesItsRow.skipNotEqualByte x nn)
  | skipEqualVariable x y =>
    exact decode_encode_of_row selects_skipEqualVariable (MatchesItsRow.skipEqualVariable x y)
  | skipNotEqualVariable x y =>
    exact decode_encode_of_row selects_skipNotEqualVariable (MatchesItsRow.skipNotEqualVariable x y)
  | skipKey x => exact decode_encode_of_row selects_skipKey (MatchesItsRow.skipKey x)
  | skipNotKey x => exact decode_encode_of_row selects_skipNotKey (MatchesItsRow.skipNotKey x)
  | setWithByte x nn => exact decode_encode_of_row selects_setWithByte (MatchesItsRow.setWithByte x nn)
  | setWithVariable x y => exact decode_encode_of_row selects_setWithVariable (MatchesItsRow.setWithVariable x y)
  | setIndexWithAddress nnn =>
    exact decode_encode_of_row selects_setIndexWithAddress (MatchesItsRow.setIndexWithAddress nnn)
  | setIndexWithSpriteAddress x =>
    exact decode_encode_of_row selects_setIndexWithSpriteAddress (MatchesItsRow.setIndexWithSpriteAddress x)
  | addWithByte x nn => exact decode_encode_of_row selects_addWithByte (MatchesItsRow.addWithByte x nn)
  | addWithVariable x y => exact decode_encode_of_row selects_addWithVariable (MatchesItsRow.addWithVariable x y)
  | addIndexWithVariable x =>
    exact decode_encode_of_row selects_addIndexWithVariable (MatchesItsRow.addIndexWithVariable x)
  | subWithVariable x y => exact decode_encode_of_row selects_subWithVariable (MatchesItsRow.subWithVariable x y)
  | subWithVariableNot x y =>
    exact decode_encode_of_row selects_subWithVariableNot (MatchesItsRow.subWithVariableNot x y)
  | shiftRight x y =>
    exact decode_encode_of_row selects_shiftRight (MatchesItsRow.shiftRight x y)
      (congrArg₂ Instr.shiftRight (opX_packXYN 0x8 x _ 0x6) (shiftField_packXYN 0x8 0x6 hwf))
  | shiftLeft x y =>
    exact decode_encode_of_row selects_shiftLeft (MatchesItsRow.shiftLeft x y)
      (congrArg₂ Instr.shiftLeft (opX_packXYN 0x8 x _ 0xE) (shiftField_packXYN 0x8 0xE hwf))
  | or x y => exact decode_encode_of_row selects_or (MatchesItsRow.or x y)
  | and x y => exact decode_encode_of_row selects_and (MatchesItsRow.and x y)
  | xor x y => exact decode_encode_of_row selects_xor (MatchesItsRow.xor x y)
  | clearScreen => exact decode_encode_of_row selects_clearScreen MatchesItsRow.clearScreen
  | draw x y n => exact decode_encode_of_row selects_draw (MatchesItsRow.draw x y n)
  | setVariableWithDelayTimer x =>
    exact decode_encode_of_row selects_setVariableWithDelayTimer (MatchesItsRow.setVariableWithDelayTimer x)
  | setDelayTimer x => exact decode_encode_of_row selects_setDelayTimer (MatchesItsRow.setDelayTimer x)
  | setSoundTimer x => exact decode_encode_of_row selects_setSoundTimer (MatchesItsRow.setSoundTimer x)
  | storeRegisters x => exact decode_encode_of_row selects_storeRegisters (MatchesItsRow.storeRegisters x)
  | loadIntoRegisters x => exact decode_encode_of_row selects_loadIntoRegisters (MatchesItsRow.loadIntoRegisters x)
  | storeDecimalConversion x =>
    exact decode_encode_of_row selects_storeDecimalConversion (MatchesItsRow.storeDecimalConversion x)
  | waitForKey x => exact decode_encode_of_row selects_waitForKey (MatchesItsRow.waitForKey x)
  | randomAnd x nn => exact decode_encode_of_row selects_randomAnd (MatchesItsRow.randomAnd x nn)
  | machineRoutine nnn =>
    obtain ⟨hclear, hret⟩ : nnn ≠ 0x0E0 ∧ nnn ≠ 0x0EE := by simpa [Instr.wellFormed] using hwf
    exact decode_encode_machineRoutine hclear hret

/-! ## Encoding a decoded instruction (R117, D44), and the words that decode to none (R114) -/

/-- The words of a shift whose `Y` nibble the Modern form discards although it is not 0 (R106, D44). -/
def DropsY (q : Quirk) (op : Word) : Prop :=
  q = .modern ∧ opA op = 8 ∧ (opD op = 6 ∨ opD op = 0xE) ∧ opC op ≠ 0

/-- The words of R114's five sets. -/
def Unlisted (op : Word) : Prop :=
  ((opA op = 5 ∨ opA op = 9) ∧ opD op ≠ 0) ∨
  (opA op = 8 ∧ opD op ∈ [(0x8 : Nibble), 0x9, 0xA, 0xB, 0xC, 0xD, 0xF]) ∨
  (opA op = 0xE ∧ opNN op ∉ [(0x9E : Byte), 0xA1]) ∨
  (opA op = 0xF ∧ opNN op ∉ [(0x07 : Byte), 0x0A, 0x15, 0x18, 0x1E, 0x29, 0x33, 0x55, 0x65])

/-- What the decoder's answer says of the word: the instruction of a listed word is well formed and has that word as its
canonical one, but for a discarded `Y`; the error of an unlisted word names it. -/
inductive Answers (q : Quirk) (op : Word) : Except DecodeError Instr → Prop
  | ok {i : Instr} (listed : ¬ Unlisted op) (wellFormed : i.wellFormed q = true)
      (canonical : encode i = op ↔ ¬ DropsY q op) : Answers q op (.ok i)
  | error (unlisted : Unlisted op) : Answers q op (.error (.noPattern op))

section

variable {q : Quirk} {op : Word} {a d : Nibble} {nn : Byte} {i : Instr}

/-! ### A word whose fixed fields are known -/

theorem packNNN_of_opA (hA : opA op = a) : packNNN a (opNNN op) = op := by
  rw [← hA, packNNN_fields]

theorem packXNN_of_opA (hA : opA op = a) : packXNN a (opX op) (opNN op) = op := by
  rw [← hA, packXNN_fields]

theorem packXNN_of_opA_opNN (hA : opA op = a) (hNN : opNN op = nn) : packXNN a (opX op) nn = op := by
  rw [← hNN, packXNN_of_opA hA]

theorem packXYN_of_opA (hA : opA op = a) : packXYN a (opX op) (opY op) (opD op) = op := by
  rw [← hA, packXYN_fields]

theorem packXYN_of_opA_opD (hA : opA op = a) (hD : opD op = d) : packXYN a (opX op) (opY op) d = op := by
  rw [← hD, packXYN_of_opA hA]

/-! ### Which words of each group are unlisted -/

theorem listed_of_opA (hA : opA op = a) (ha : a ∉ [(0x5 : Nibble), 0x8, 0x9, 0xE, 0xF]) : ¬ Unlisted op := by
  subst hA
  rintro (⟨hA | hA, -⟩ | ⟨hA, -⟩ | ⟨hA, -⟩ | ⟨hA, -⟩) <;> simp [hA] at ha

theorem unlisted_groupXY_iff (hA : opA op = 0x5 ∨ opA op = 0x9) : Unlisted op ↔ opD op ≠ 0 := by
  rcases hA with hA | hA <;> simp [Unlisted, hA]

theorem unlisted_group8_iff (hA : opA op = 0x8) :
    Unlisted op ↔ opD op ∉ [(0x0 : Nibble), 0x1, 0x2, 0x3, 0x4, 0x5, 0x6, 0x7, 0xE] := by
  have hcodes : ∀ d : Nibble, d ∈ [(0x8 : Nibble), 0x9, 0xA, 0xB, 0xC, 0xD, 0xF] ↔
      d ∉ [(0x0 : Nibble), 0x1, 0x2, 0x3, 0x4, 0x5, 0x6, 0x7, 0xE] := by decide
  rw [← hcodes]
  simp [Unlisted, hA]

theorem unlisted_groupE_iff (hA : opA op = 0xE) : Unlisted op ↔ opNN op ∉ [(0x9E : Byte), 0xA1] := by
  simp [Unlisted, hA]

theorem unlisted_groupF_iff (hA : opA op = 0xF) :
    Unlisted op ↔ opNN op ∉ [(0x07 : Byte), 0x0A, 0x15, 0x18, 0x1E, 0x29, 0x33, 0x55, 0x65] := by
  simp [Unlisted, hA]

/-! ### The forms that depend on `QUIRK` (R106) -/

theorem shiftFormOk_shiftField (q : Quirk) (op : Word) : shiftFormOk q (shiftField q op) = true := by
  cases q <;> rfl

theorem jumpOffsetFormOk_jumpOffsetField (q : Quirk) (op : Word) :
    jumpOffsetFormOk q (opNNN op) (jumpOffsetField q op) = true := by
  cases q with
  | legacy => rfl
  | modern =>
    have hX : opX op = ((opNNN op).extractLsb' 8 4).toFin := by
      rw [← opX_packNNN (opA op), packNNN_fields]
    exact beq_iff_eq.mpr (congrArg some hX)

theorem shiftField_getD_eq_opY_iff : (shiftField q op).getD 0 = opY op ↔ ¬ (q = .modern ∧ opC op ≠ 0) := by
  cases q with
  | legacy => simp [shiftField]
  | modern =>
    have hY : opY op = 0 ↔ opC op = 0 := BitVec.toFin_inj (y := 0)
    simp [shiftField, eq_comm (a := (0 : Reg)), hY]

theorem packXYN_shiftField_iff (hA : opA op = 0x8) (hD : opD op = d) :
    packXYN 0x8 (opX op) ((shiftField q op).getD 0) d = op ↔ ¬ (q = .modern ∧ opC op ≠ 0) := by
  rw [← shiftField_getD_eq_opY_iff]
  constructor
  · intro h
    simpa using congrArg opY h
  · intro h
    rw [h, packXYN_of_opA_opD hA hD]

/-! ### One rule per format and per group (R102, R113) -/

namespace Answers

theorem of_encode (hlisted : ¬ Unlisted op) (hwf : i.wellFormed q = true) (hencode : encode i = op)
    (hshift : opA op = 8 → opD op ≠ 6 ∧ opD op ≠ 0xE) : Answers q op (.ok i) :=
  .ok hlisted hwf (iff_of_true hencode fun ⟨_, hA, hD, _⟩ => hD.elim (hshift hA).1 (hshift hA).2)

theorem of_opA (hA : opA op = a) (ha : a ∉ [(0x5 : Nibble), 0x8, 0x9, 0xE, 0xF]) (hwf : i.wellFormed q = true)
    (hencode : encode i = op) : Answers q op (.ok i) :=
  of_encode (listed_of_opA hA ha) hwf hencode fun h8 => by
    subst hA
    simp [h8] at ha

theorem formatNNN (hA : opA op = a) (ha : a ∉ [(0x5 : Nibble), 0x8, 0x9, 0xE, 0xF])
    (hwf : i.wellFormed q = true) (hencode : encode i = packNNN a (opNNN op)) : Answers q op (.ok i) :=
  of_opA hA ha hwf (hencode.trans (packNNN_of_opA hA))

theorem formatXNN (hA : opA op = a) (ha : a ∉ [(0x5 : Nibble), 0x8, 0x9, 0xE, 0xF])
    (hwf : i.wellFormed q = true) (hencode : encode i = packXNN a (opX op) (opNN op)) : Answers q op (.ok i) :=
  of_opA hA ha hwf (hencode.trans (packXNN_of_opA hA))

theorem formatXYN (hA : opA op = a) (ha : a ∉ [(0x5 : Nibble), 0x8, 0x9, 0xE, 0xF])
    (hwf : i.wellFormed q = true) (hencode : encode i = packXYN a (opX op) (opY op) (opD op)) : Answers q op (.ok i) :=
  of_opA hA ha hwf (hencode.trans (packXYN_of_opA hA))

theorem groupXY (hA : opA op = a) (ha : a = 0x5 ∨ a = 0x9) (hwf : i.wellFormed q = true)
    (hencode : encode i = packXYN a (opX op) (opY op) 0x0) :
    Answers q op (if opD op = 0 then .ok i else .error (.noPattern op)) := by
  have hunlisted := unlisted_groupXY_iff (hA ▸ ha)
  split
  case isTrue hD =>
    exact of_encode (by simp [hunlisted, hD]) hwf (hencode.trans (packXYN_of_opA_opD hA hD)) (by simp [hD])
  case isFalse hD => exact .error (hunlisted.mpr hD)

theorem group8_row (hA : opA op = 0x8) (hD : opD op = d)
    (hd : d ∈ [(0x0 : Nibble), 0x1, 0x2, 0x3, 0x4, 0x5, 0x7]) (hwf : i.wellFormed q = true)
    (hencode : encode i = packXYN 0x8 (opX op) (opY op) d) : Answers q op (.ok i) := by
  have hcodes : ∀ d ∈ [(0x0 : Nibble), 0x1, 0x2, 0x3, 0x4, 0x5, 0x7],
      d ∈ [(0x0 : Nibble), 0x1, 0x2, 0x3, 0x4, 0x5, 0x6, 0x7, 0xE] ∧ d ≠ 6 ∧ d ≠ 0xE := by decide
  obtain ⟨hlisted, hshift⟩ := hcodes d hd
  subst hD
  exact of_encode (by rwa [unlisted_group8_iff hA, not_not]) hwf (hencode.trans (packXYN_of_opA hA)) fun _ => hshift

theorem group8_shift (hA : opA op = 0x8) (hD : opD op = d) (hd : d = 6 ∨ d = 0xE) (hwf : i.wellFormed q = true)
    (hencode : encode i = packXYN 0x8 (opX op) ((shiftField q op).getD 0) d) : Answers q op (.ok i) := by
  refine .ok ?_ hwf ?_
  · rcases hd with rfl | rfl <;> simp [unlisted_group8_iff hA, hD]
  · rw [hencode, packXYN_shiftField_iff hA hD]
    rcases hd with rfl | rfl <;> simp [DropsY, hA, hD]

theorem groupE_row (hA : opA op = 0xE) (hNN : opNN op = nn) (hnn : nn ∈ [(0x9E : Byte), 0xA1])
    (hwf : i.wellFormed q = true) (hencode : encode i = packXNN 0xE (opX op) nn) : Answers q op (.ok i) := by
  refine of_encode ?_ hwf (hencode.trans (packXNN_of_opA_opNN hA hNN)) (by simp [hA])
  rw [unlisted_groupE_iff hA, hNN]
  exact not_not.mpr hnn

theorem groupF_row (hA : opA op = 0xF) (hNN : opNN op = nn)
    (hnn : nn ∈ [(0x07 : Byte), 0x0A, 0x15, 0x18, 0x1E, 0x29, 0x33, 0x55, 0x65]) (hwf : i.wellFormed q = true)
    (hencode : encode i = packXNN 0xF (opX op) nn) : Answers q op (.ok i) := by
  refine of_encode ?_ hwf (hencode.trans (packXNN_of_opA_opNN hA hNN)) (by simp [hA])
  rw [unlisted_groupF_iff hA, hNN]
  exact not_not.mpr hnn

/-- Group 0: the two fixed words, and every other word as `MachineRoutine` (R111). -/
theorem group0 (hA : opA op = 0x0) : Answers q op (.ok (decodeGroup0 op)) := by
  have hword : packNNN 0x0 (opNNN op) = op := packNNN_of_opA hA
  unfold decodeGroup0
  split
  case isTrue hclear => exact of_opA hA (by decide) rfl hclear.symm
  split
  case isTrue hret => exact of_opA hA (by decide) rfl hret.symm
  case isFalse hclear hret =>
    have hwf : (Instr.machineRoutine (opNNN op)).wellFormed q = true := by
      simp only [Instr.wellFormed, Bool.and_eq_true, bne_iff_ne]
      exact ⟨fun h => hclear (hword.symm.trans (congrArg (packNNN 0x0) h)),
        fun h => hret (hword.symm.trans (congrArg (packNNN 0x0) h))⟩
    exact of_opA hA (by decide) hwf hword

/-- In the default branch the function code is none of those the decoder names (R114), here as in the groups E and F. -/
theorem group8 (hA : opA op = 0x8) : Answers q op (decodeGroup8 q op) := by
  unfold decodeGroup8
  split
  case h_7 hD => -- 8XY6
    exact group8_shift (d := 0x6) hA (BitVec.eq_of_toNat_eq hD) (.inl rfl) (shiftFormOk_shiftField q op) rfl
  case h_9 hD => -- 8XYE
    exact group8_shift (d := 0xE) hA (BitVec.eq_of_toNat_eq hD) (.inr rfl) (shiftFormOk_shiftField q op) rfl
  case h_10 =>
    exact .error ((unlisted_group8_iff hA).mpr (by simp_all [← BitVec.toNat_inj]))
  all_goals exact group8_row hA (BitVec.eq_of_toNat_eq ‹_›) (by decide) rfl rfl

theorem groupE (hA : opA op = 0xE) : Answers q op (decodeGroupE op) := by
  unfold decodeGroupE
  split
  case h_3 =>
    exact .error ((unlisted_groupE_iff hA).mpr (by simp_all [← BitVec.toNat_inj]))
  all_goals exact groupE_row hA (BitVec.eq_of_toNat_eq ‹_›) (by decide) rfl rfl

theorem groupF (hA : opA op = 0xF) : Answers q op (decodeGroupF op) := by
  unfold decodeGroupF
  split
  case h_10 =>
    exact .error ((unlisted_groupF_iff hA).mpr (by simp_all [← BitVec.toNat_inj]))
  all_goals exact groupF_row hA (BitVec.eq_of_toNat_eq ‹_›) (by decide) rfl rfl

end Answers

end

/-- The decoder answers each word as its group's rule says (R113). -/
theorem answers_decode (q : Quirk) (op : Word) : Answers q op (decode q op) := by
  unfold decode
  split
  case h_1 hA => exact .group0 (BitVec.eq_of_toNat_eq hA)
  case h_2 hA => exact .formatNNN (a := 0x1) (BitVec.eq_of_toNat_eq hA) (by decide) rfl rfl
  case h_3 hA => exact .formatNNN (a := 0x2) (BitVec.eq_of_toNat_eq hA) (by decide) rfl rfl
  case h_4 hA => exact .formatXNN (a := 0x3) (BitVec.eq_of_toNat_eq hA) (by decide) rfl rfl
  case h_5 hA => exact .formatXNN (a := 0x4) (BitVec.eq_of_toNat_eq hA) (by decide) rfl rfl
  case h_6 hA => exact .groupXY (a := 0x5) (BitVec.eq_of_toNat_eq hA) (.inl rfl) rfl rfl
  case h_7 hA => exact .formatXNN (a := 0x6) (BitVec.eq_of_toNat_eq hA) (by decide) rfl rfl
  case h_8 hA => exact .formatXNN (a := 0x7) (BitVec.eq_of_toNat_eq hA) (by decide) rfl rfl
  case h_9 hA => exact .group8 (BitVec.eq_of_toNat_eq hA)
  case h_10 hA => exact .groupXY (a := 0x9) (BitVec.eq_of_toNat_eq hA) (.inr rfl) rfl rfl
  case h_11 hA => exact .formatNNN (a := 0xA) (BitVec.eq_of_toNat_eq hA) (by decide) rfl rfl
  case h_12 hA => -- BNNN
    exact .formatNNN (a := 0xB) (BitVec.eq_of_toNat_eq hA) (by decide) (jumpOffsetFormOk_jumpOffsetField q op) rfl
  case h_13 hA => exact .formatXNN (a := 0xC) (BitVec.eq_of_toNat_eq hA) (by decide) rfl rfl
  case h_14 hA => exact .formatXYN (a := 0xD) (BitVec.eq_of_toNat_eq hA) (by decide) rfl rfl
  case h_15 hA => exact .groupE (BitVec.eq_of_toNat_eq hA)
  case h_16 hA => exact .groupF (BitVec.eq_of_toNat_eq hA)
  case h_17 => -- no nibble is left
    have hlt := (opA op).isLt
    simp only [imp_false] at *
    omega

/-- Settles O4: an answer with an instruction is that of a listed word. -/
theorem encodeOfDecodeGivesTheWord : Obligations.EncodeOfDecodeGivesTheWord := by
  intro q op i h
  cases h ▸ answers_decode q op with
  | ok _ hwf hcanonical => exact ⟨hwf, hcanonical⟩

/-- Settles O5: a listed word is answered with an instruction and an unlisted one with the error. -/
theorem decodingFailsExactlyOnUnlistedWords : Obligations.DecodingFailsExactlyOnUnlistedWords := by
  intro q op
  have hanswers := answers_decode q op
  generalize decode q op = answer at hanswers ⊢
  cases hanswers with
  | ok hlisted => exact ⟨fun h => absurd h hlisted, fun _ => ⟨_, rfl⟩⟩
  | error hunlisted => exact ⟨fun _ => rfl, fun h => absurd hunlisted h⟩

end Sys2Proof

/-! ## The execution cycle (R150 to R162) -/

namespace Sys2Proof.Machine

/-! ### Fetch and decode (R153, R154) -/

/-- The first of two bytes is the high one (R74). -/
theorem toNat_wordOfBytes (hi lo : Byte) : (wordOfBytes hi lo).toNat = 256 * hi.toNat + lo.toNat := by
  rw [wordOfBytes, toNat_append]; omega

theorem fetchDecode_of_decode_ok {s : State} {i : Instr} (hpc : s.pc.toNat + 1 < 4096)
    (hd : decode s.cfg.quirk (wordOfBytes (s.byteAt s.pc.toNat) (s.byteAt (s.pc.toNat + 1))) = .ok i) :
    fetchDecode s = .executes i := by
  simp only [fetchDecode, fetch_ok hpc, hd]

theorem fetchDecode_of_decode_error {s : State} {e : DecodeError} (hpc : s.pc.toNat + 1 < 4096)
    (hd : decode s.cfg.quirk (wordOfBytes (s.byteAt s.pc.toNat) (s.byteAt (s.pc.toNat + 1))) = .error e) :
    fetchDecode s = .raises (.decodeError (wordOfBytes (s.byteAt s.pc.toNat) (s.byteAt (s.pc.toNat + 1)))) := by
  simp only [fetchDecode, fetch_ok hpc, hd]

theorem fetchDecode_of_pc_ge {s : State} (hpc : 4095 ≤ s.pc.toNat) :
    fetchDecode s = .raises (.memoryOutOfRange (max s.pc.toNat 4096)) := by
  simp only [fetchDecode, fetch_error (show 4096 ≤ s.pc.toNat + 1 by omega)]

/-! ### The step and its result, by what the checks of R152 find -/

section Checks

variable {s : State} (hfault : s.fault = none)
include hfault

theorem stepBlock_of_waiting {x : Reg} (hwait : s.waitReg = some x) : stepBlock s = .next (waitStep x s) := by
  simp only [stepBlock, activity, hfault, hwait]

variable (hwait : s.waitReg = none)
include hwait

theorem stepBlock_of_raises {f : Fault} (h : fetchDecode s = .raises f) :
    stepBlock s = .next (s.withFault (some f)) := by
  simp only [stepBlock, activity, hfault, hwait, h, raise_eq]

theorem stepResult_of_raises {f : Fault} (h : fetchDecode s = .raises f) : stepResult s = .faulted f := by
  simp only [stepResult, activity, hfault, hwait, h]

theorem stepBlock_of_executes {i : Instr} (h : fetchDecode s = .executes i) : stepBlock s = exec i s := by
  simp only [stepBlock, activity, hfault, hwait, h]

theorem stepResult_of_executes {i : Instr} (h : fetchDecode s = .executes i) :
    stepResult s = executionResult i (exec i s) := by
  simp only [stepResult, activity, hfault, hwait, h]

end Checks

theorem executionResult_of_no_fault {i : Instr} {t : State} (h : t.fault = none) :
    executionResult i (.next t) = .executed i := by
  simp only [executionResult, h]

theorem executionResult_of_fault {i : Instr} {t : State} {f : Fault} (h : t.fault = some f) :
    executionResult i (.next t) = .faulted f := by
  simp only [executionResult, h]

/-- Nothing is executed without an event (R304). -/
theorem waitStep_of_no_event {x : Reg} {s : State} (h : s.relEvent = none) : waitStep x s = s := by
  simp only [waitStep, h]

/-! ### The driver's schedule (log 5, log 6) -/

theorem step_of_scheduled {s : State} {op : DriverOp} {rest : List DriverOp} (h : s.driver = op :: rest) :
    step s = perform op (s.withDriver rest) := by
  simp only [step, nextOperation, h]

theorem step_of_unscheduled {s : State} (h : s.driver = []) : step s = stepBlock s.drawRandom := by
  simp only [step, nextOperation, h]

/-! ### Every step answers (R158) -/

theorem stepBlock_answers (s : State) : ∃ t, stepBlock s = .next t := by
  unfold stepBlock
  cases activity s with
  | faulted f => exact ⟨_, rfl⟩
  | waiting x => exact ⟨_, rfl⟩
  | raises f => exact ⟨_, rfl⟩
  | executes i => exact exec_answers i s

theorem perform_answers (op : DriverOp) (s : State) : ∃ t, perform op s = .next t := by
  cases op with
  | step r => exact stepBlock_answers _
  | _ => exact ⟨_, rfl⟩

theorem step_answers (s : State) : ∃ t, step s = .next t := by
  cases h : s.driver with
  | nil => rw [step_of_unscheduled h]; exact stepBlock_answers _
  | cons op rest => rw [step_of_scheduled h]; exact perform_answers op _

/-! ### A raised fault discards the instruction's other effects (R156, R346) -/

/-- A checked operation whose continuation leaves the fault record alone leaves it alone, or changes nothing else. -/
theorem orRaise_fault_cases {α : Type} {r : Except Fault α} {s t : State} {go : α → Result}
    (h : orRaise r s go = .next t) (hgo : ∀ a, go a = .next t → t.fault = s.fault) :
    t.fault = s.fault ∨ ∃ f, t = s.withFault (some f) := by
  rcases orRaise_cases h with ⟨a, -, hnext⟩ | ⟨f, -, rfl⟩
  · exact .inl (hgo a hnext)
  · exact .inr ⟨f, rfl⟩

/-- An instruction leaves the fault record alone, or changes nothing else: the footprint decides it except for the
instructions R340 lets raise, each of which is a checked operation. -/
theorem exec_fault_cases {i : Instr} {s t : State} (h : exec i s = .next t) :
    t.fault = s.fault ∨ ∃ f, t = s.withFault (some f) := by
  have hframe := exec_changesOnly h
  have hskip {c : Bool} (hc : skipIf c s = .next t) : t.fault = s.fault :=
    (ChangesOnly.skipIf (p := {}) hc).fault rfl
  cases i with
  | call nnn => exact orRaise_fault_cases h fun _ hgo => by cases hgo; rfl
  | ret => exact orRaise_fault_cases h fun _ hgo => by cases hgo; rfl
  | skipKey x => exact orRaise_fault_cases h fun _ hgo => hskip hgo
  | skipNotKey x => exact orRaise_fault_cases h fun _ hgo => hskip hgo
  | draw x y n => exact orRaise_fault_cases h fun _ hgo => by cases hgo; rfl
  | storeRegisters x => exact orRaise_fault_cases h fun _ hgo => by cases hgo; rfl
  | loadIntoRegisters x => exact orRaise_fault_cases h fun _ hgo => by cases hgo; rfl
  | storeDecimalConversion x => exact orRaise_fault_cases h fun _ hgo => by cases hgo; rfl
  | _ => exact .inl (hframe.fault rfl)

/-! ### The random byte (R155) -/

section Commutes

variable (s : State) (g : State → State)

/-- A skip commutes with a change `g` of the state that neither reads nor moves `PC`. -/
theorem skipIf_commutes (hpc : (g s).pc = s.pc) (hg : ∀ pc, (g s).withPc pc = g (s.withPc pc)) (c : Bool) :
    skipIf c (g s) = mapNext g (skipIf c s) := by
  rw [skipIf_eq, skipIf_eq, hpc, hg]; rfl

/-- A checked operation commutes with a change `g` of the state that keeps the record of a fault, when what it goes on
to does. -/
theorem orRaise_commutes {α : Type} (r : Except Fault α) {go go' : α → Result}
    (hg : ∀ f, (g s).withFault f = g (s.withFault f)) (h : ∀ a, go' a = mapNext g (go a)) :
    orRaise r (g s) go' = mapNext g (orRaise r s go) := by
  cases r with
  | ok a => exact h a
  | error f => rw [orRaise_error, orRaise_error, hg]; rfl

end Commutes

/-- Only `RandomAnd` reads the random byte: every checked operation, condition and written value of the others is the
same in both states. -/
theorem exec_withRnd (s : State) (r : Byte) (i : Instr) (hrandom : ∀ x nn, i ≠ .randomAnd x nn) :
    exec i (s.withRnd r) = mapNext (·.withRnd r) (exec i s) := by
  have hskip (c : Bool) : skipIf c (s.withRnd r) = mapNext (·.withRnd r) (skipIf c s) :=
    skipIf_commutes s (·.withRnd r) rfl (fun _ => rfl) c
  have hchecked {α : Type} (a : Except Fault α) {go go' : α → Result}
      (h : ∀ a, go' a = mapNext (·.withRnd r) (go a)) :
      orRaise a (s.withRnd r) go' = mapNext (·.withRnd r) (orRaise a s go) :=
    orRaise_commutes s (·.withRnd r) a (fun _ => rfl) h
  cases i with
  | randomAnd x nn => exact absurd rfl (hrandom x nn)
  | call nnn => exact hchecked (s.push (s.pc + 2)) fun _ => rfl
  | ret => exact hchecked s.pop fun _ => rfl
  | skipEqualByte x nn => exact hskip (s.reg x == nn)
  | skipNotEqualByte x nn => exact hskip (s.reg x != nn)
  | skipEqualVariable x y => exact hskip (s.reg x == s.reg y)
  | skipNotEqualVariable x y => exact hskip (s.reg x != s.reg y)
  | skipKey x => exact hchecked (s.keyOperand x) fun k => hskip (s.key k == .pressed)
  | skipNotKey x => exact hchecked (s.keyOperand x) fun k => hskip (s.key k != .pressed)
  | draw x y n => exact hchecked (s.readOperand n.toNat) fun _ => rfl
  | storeRegisters x => exact hchecked (s.storeOperand (s.firstRegisters x)) fun _ => rfl
  | loadIntoRegisters x => exact hchecked (s.readOperand (x.val + 1)) fun _ => rfl
  | storeDecimalConversion x => exact hchecked (s.storeOperand (decimalDigits (s.reg x))) fun _ => rfl
  | waitForKey x => rw [exec_waitForKey, exec_waitForKey]; rfl
  | _ => rfl -- an unconditional update that does not read the random byte

/-! ### A jump to its own address (R162) -/

/-- The 12-bit address of a `PC` in memory extends to that `PC`. -/
theorem zextAddr_setWidth {pc : Word} (h : pc.toNat < 4096) : zextAddr (pc.setWidth 12) = pc := by
  apply BitVec.eq_of_toNat_eq
  rw [toNat_zextAddr, BitVec.toNat_setWidth, Nat.mod_eq_of_lt h]

/-- `0x1000 + PC` is the word of the jump to `PC`. -/
theorem eq_encode_jump {op pc : Word} (hpc : pc.toNat < 4096) (h : op.toNat = 0x1000 + pc.toNat) :
    op = encode (.jump (pc.setWidth 12)) := by
  apply BitVec.eq_of_toNat_eq
  rw [h, encode, packNNN_toNat, BitVec.toNat_setWidth, Nat.mod_eq_of_lt hpc]; rfl

theorem withPc_self (s : State) : s.withPc s.pc = s := rfl

end Sys2Proof.Machine

namespace Sys2Proof

/-- Settles O8: the fetch reads inside memory below 4095, and from 4095 up the fault of its lowest address is raised. -/
theorem fetchReadsTheWordAtPcOrFaults : Obligations.FetchReadsTheWordAtPcOrFaults := by
  refine fun s => ⟨fun hpc => ?_, fun hpc hfault hwait => ?_⟩
  · have hnext : s.nextPc.toNat = s.pc.toNat + 2 := by rw [Machine.State.nextPc]; bv_omega
    exact ⟨_, Machine.fetch_ok (by omega), Machine.toNat_wordOfBytes _ _, hnext, by omega⟩
  · have hraises := Machine.fetchDecode_of_pc_ge hpc
    exact ⟨Machine.stepBlock_of_raises hfault hwait hraises, Machine.stepResult_of_raises hfault hwait hraises⟩

/-- Settles O10: a wait step records no fault, the fetch and the decoder commit nothing, and an instruction that changes
the record changes nothing else. -/
theorem raisedFaultCommitsNothingElse : Obligations.RaisedFaultCommitsNothingElse := by
  intro s t f hfault hstep ht
  have hchanged : t.fault ≠ s.fault := by rw [ht, hfault]; exact Option.some_ne_none f
  rcases Machine.stepBlock_cases hstep with
    ⟨_, -, rfl⟩ | ⟨-, x, -, rfl⟩ | ⟨-, hwait, g, hraises, rfl⟩ | ⟨-, hwait, i, hexecutes, hexec⟩
  · exact absurd rfl hchanged
  · exact absurd ((Machine.waitStep_changesOnly x s).fault rfl) hchanged
  · cases ht
    exact ⟨rfl, Machine.stepResult_of_raises hfault hwait hraises⟩
  · have hresult : Machine.stepResult s = .faulted f := by
      rw [Machine.stepResult_of_executes hfault hwait hexecutes, hexec, Machine.executionResult_of_fault ht]
    rcases Machine.exec_fault_cases hexec with hsame | ⟨g, rfl⟩
    · exact absurd hsame hchanged
    · cases ht
      exact ⟨rfl, hresult⟩

/-- Settles O12: exec answers, and the step, the driver's operations and the wait answer through it. -/
theorem everyStepAnswersANextState : Obligations.EveryStepAnswersANextState := by
  refine ⟨Machine.step_answers, Machine.stepBlock_answers, Machine.exec_answers,
    fun s x hfault hwait hevent => ⟨s, ?_, rfl⟩⟩
  rw [Machine.stepBlock_of_waiting hfault hwait, Machine.waitStep_of_no_event hevent]

/-- Settles O24, instruction by instruction. -/
theorem onlyRandomAndReadsTheRandomByte : Obligations.OnlyRandomAndReadsTheRandomByte :=
  fun i s r hrandom => Machine.exec_withRnd s r i hrandom

/-- Settles O31: the word at `PC` is that of the jump to `PC`, which decodes to it (R117). -/
theorem selfJumpIsAFixedPoint : Obligations.SelfJumpIsAFixedPoint := by
  intro s hfault hwait hpc hword
  have hbound : s.pc.toNat < 4096 := by omega
  have hencode := Machine.eq_encode_jump hbound ((Machine.toNat_wordOfBytes _ _).trans hword)
  have hdecode := decodeOfEncodeGivesTheInstruction s.cfg.quirk (.jump (s.pc.setWidth 12)) rfl
  rw [← hencode] at hdecode
  rw [Machine.stepBlock_of_executes hfault hwait (Machine.fetchDecode_of_decode_ok (by omega) hdecode),
    Machine.exec_jump, Machine.zextAddr_setWidth hbound, Machine.withPc_self]

/-- Settles O6: neither the random byte nor the schedule enters the checks, the fetch or the decoder. -/
theorem stepRunsTheDecodedInstruction : Obligations.StepRunsTheDecodedInstruction := by
  intro s i hfault hwait hpc hdecode
  have hexecutes := Machine.fetchDecode_of_decode_ok hpc hdecode
  refine ⟨Machine.stepBlock_of_executes hfault hwait hexecutes, fun t hexec ht => ?_, fun hnone => ?_,
    fun r rest hstep => ?_⟩
  · rw [Machine.stepResult_of_executes hfault hwait hexecutes, hexec, Machine.executionResult_of_no_fault ht]
  · rw [Machine.step_of_unscheduled hnone]
    exact Machine.stepBlock_of_executes (s := s.drawRandom) hfault hwait hexecutes
  · rw [Machine.step_of_scheduled hstep]
    exact Machine.stepBlock_of_executes (s := (s.withDriver rest).withRnd r) hfault hwait hexecutes

/-- Settles O7: the schedule's two cases, and the operations' answers by definition. -/
theorem scheduledOperationIsPerformedNext : Obligations.ScheduledOperationIsPerformedNext := by
  refine ⟨fun s op rest h => Machine.step_of_scheduled h, fun s h => Machine.step_of_unscheduled h,
    fun r s => ⟨rfl, rfl⟩, ?_⟩
  rintro op s (rfl | rfl | rfl)
  · exact ⟨rfl, fun _ => rfl, nofun, nofun⟩
  · exact ⟨rfl, nofun, fun _ => rfl, nofun⟩
  · exact ⟨rfl, nofun, nofun, fun _ => rfl⟩

/-- Settles O9: the decoder's error makes the step raise. -/
theorem undecodableWordRaisesDecodeError : Obligations.UndecodableWordRaisesDecodeError := by
  intro s e hfault hwait hpc hdecode
  have hraises := Machine.fetchDecode_of_decode_error hpc hdecode
  exact ⟨Machine.stepBlock_of_raises hfault hwait hraises, Machine.stepResult_of_raises hfault hwait hraises⟩

end Sys2Proof

/-! ## Control transfer and skips (R170 to R180) -/

namespace Sys2Proof.Machine

/-- `NNN` plus a byte is below 65536, so the sum `JumpOffset` jumps to does not wrap (R173, D46). -/
theorem toNat_addIndex_zextAddr (nnn : Addr) (b : Byte) :
    (addIndex (zextAddr nnn) b.toNat).toNat = nnn.toNat + b.toNat := by
  have := nnn.isLt
  have := b.isLt
  rw [addIndex, BitVec.toNat_ofNat, toNat_zextAddr]
  omega

/-- Both forms of `JumpOffset` at once (R106, R173). -/
theorem exec_jumpOffset_completes (nnn : Addr) (register : Option Reg) (s : State) :
    ∃ t, exec (.jumpOffset nnn register) s = .next t ∧ t.pc.toNat = nnn.toNat + (s.jumpOffset register).toNat ∧
      t.pc.toNat ≤ 0x10FE ∧ ChangesOnly {} s t :=
  ⟨_, exec_jumpOffset s nnn register, toNat_addIndex_zextAddr nnn _, addIndex_zextAddr_le nnn _,
    (ChangesOnly.refl {} s).withPc _⟩

/-- An instruction that answers as `skipIf` skips when the Boolean's condition holds (R174, D11). -/
theorem skipsWhen_of_exec_eq_skipIf {i : Instr} {s : State} {c : Bool} {cond : State → Prop}
    (hexec : exec i s = skipIf c s) (hcond : c = true ↔ cond s) : SkipsWhen i cond s := by
  have hnext : exec i s = .next (s.withPc (if c then s.pc + 2 + 2 else s.pc + 2)) := hexec.trans (skipIf_eq c s)
  refine ⟨_, hnext, fun hc => ?_, fun hc => ?_, (ChangesOnly.refl {} s).withPc _⟩
  · rw [State.withPc_pc, if_pos (hcond.mpr hc), BitVec.add_assoc]; rfl
  · rw [State.withPc_pc, if_neg (mt hcond.mp hc)]

end Sys2Proof.Machine

namespace Sys2Proof

open Machine (ChangesOnly)

/-- Settles O32: the push fails exactly on a full stack. -/
theorem callPushesTheReturnAddress : Obligations.CallPushesTheReturnAddress := by
  refine fun nnn s => ⟨fun hroom => ?_, fun hfull => ?_⟩
  · have hpush : s.push (s.pc + 2) = .ok (s.stack ++ [s.pc + 2]) :=
      Machine.State.push_ok (Bool.eq_false_iff.mpr (mt Machine.stackFull_iff.mp hroom))
    have hexec := Machine.exec_call s nnn
    rw [hpush, Machine.orRaise_ok] at hexec
    exact ⟨_, hexec, rfl, Machine.toNat_zextAddr nnn, ((ChangesOnly.refl _ s).withStack rfl _).withPc _⟩
  · rw [Machine.Raises, Machine.exec_call, Machine.State.push_error (Machine.stackFull_iff.mpr hfull),
      Machine.orRaise_error]

/-- Settles O33: the pop fails exactly on an empty stack. -/
theorem returnPopsTheProgramCounter : Obligations.ReturnPopsTheProgramCounter := by
  refine fun s => ⟨fun v rest htop => ?_, fun hempty => ?_⟩
  · have hexec := Machine.exec_ret s
    rw [Machine.State.pop_ok htop, Machine.orRaise_ok] at hexec
    exact ⟨_, hexec, rfl, rfl, ((ChangesOnly.refl _ s).withStack rfl _).withPc _⟩
  · rw [Machine.Raises, Machine.exec_ret, Machine.State.pop_error hempty, Machine.orRaise_error]

/-- Settles O35: the decoder's row, and one fact about `JumpOffset` for its two forms. -/
theorem jumpOffsetAddsTheQuirkRegister : Obligations.JumpOffsetAddsTheQuirkRegister :=
  ⟨selects_jumpOffset, fun nnn s =>
    ⟨Machine.exec_jumpOffset_completes nnn none s, fun r => Machine.exec_jumpOffset_completes nnn (some r) s⟩⟩

/-- Settles O37: the key number is checked first, and a number below 16 names the key the skip tests. -/
theorem keySkipsTestPressedOnly : Obligations.KeySkipsTestPressedOnly := by
  refine fun x s => ⟨fun k hk => ?_, fun hrange => ?_⟩
  · have hkey : s.keyOperand x = .ok k := by
      rw [Machine.State.keyOperand_ok (hk ▸ k.isLt)]
      exact congrArg _ (Fin.ext hk)
    refine ⟨Machine.skipsWhen_of_exec_eq_skipIf (c := s.key k == .pressed) ?_ beq_iff_eq,
      Machine.skipsWhen_of_exec_eq_skipIf (c := s.key k != .pressed) ?_ bne_iff_ne⟩
    · rw [Machine.exec_skipKey, hkey, Machine.orRaise_ok]
    · rw [Machine.exec_skipNotKey, hkey, Machine.orRaise_ok]
  · have hkey := Machine.State.keyOperand_error hrange
    constructor
    · rw [Machine.Raises, Machine.exec_skipKey, hkey, Machine.orRaise_error]
    · rw [Machine.Raises, Machine.exec_skipNotKey, hkey, Machine.orRaise_error]

/-- Settles O34: only `PC` is written. -/
theorem jumpReplacesTheProgramCounter : Obligations.JumpReplacesTheProgramCounter :=
  fun nnn s => ⟨_, Machine.exec_jump s nnn, Machine.toNat_zextAddr nnn, (ChangesOnly.refl {} s).withPc _⟩

/-- Settles O36: each skip answers as `skipIf` with the Boolean of its condition. -/
theorem valueSkipsTestTheirCondition : Obligations.ValueSkipsTestTheirCondition := fun x y nn s =>
  ⟨Machine.skipsWhen_of_exec_eq_skipIf (Machine.exec_skipEqualByte s x nn) beq_iff_eq,
    Machine.skipsWhen_of_exec_eq_skipIf (Machine.exec_skipNotEqualByte s x nn) bne_iff_ne,
    Machine.skipsWhen_of_exec_eq_skipIf (Machine.exec_skipEqualVariable s x y) beq_iff_eq,
    Machine.skipsWhen_of_exec_eq_skipIf (Machine.exec_skipNotEqualVariable s x y) bne_iff_ne⟩

end Sys2Proof

/-! ## Registers and arithmetic (R200 to R214) -/

namespace Sys2Proof.Machine

/-! ### The 8-bit and 16-bit results as numbers (R35, R214) -/

theorem toNat_addBytes (a b : Byte) : (addBytes a b).toNat = (a.toNat + b.toNat) % 256 :=
  BitVec.toNat_ofNat _ _

/-- Adding 256 before the subtraction keeps it in the naturals and drops out modulo 256 (R207, R208). -/
theorem toNat_subBytes (a b : Byte) : ((subBytes a b).toNat : Int) = (a.toNat - b.toNat : Int) % 256 := by
  have := b.isLt
  rw [subBytes, BitVec.toNat_ofNat]
  omega

theorem toNat_shiftRightByte (v : Byte) : (shiftRightByte v).toNat = v.toNat / 2 := by
  have := v.isLt
  rw [shiftRightByte, BitVec.toNat_ofNat]
  omega

theorem toNat_shiftLeftByte (v : Byte) : (shiftLeftByte v).toNat = v.toNat * 2 % 256 :=
  BitVec.toNat_ofNat _ _

theorem toNat_addIndex (i : Word) (n : Nat) : (addIndex i n).toNat = (i.toNat + n) % 65536 :=
  BitVec.toNat_ofNat _ _

theorem flagByte_decide (p : Prop) [Decidable p] : flagByte (decide p) = if p then 1 else 0 := by
  by_cases hp : p <;> simp [flagByte, hp]

theorem toNat_flagByte (b : Bool) : (flagByte b).toNat = b.toNat := by
  cases b <;> rfl

theorem toNat_shiftRightFlag (v : Byte) : (shiftRightFlag v).toNat = v.toNat % 2 := by
  rw [shiftRightFlag, toNat_flagByte, BitVec.getLsbD, Nat.toNat_testBit, pow_zero, Nat.div_one]

/-- Nothing of a byte lies above its bit 7, so that bit is the quotient by 128 (R210). -/
theorem toNat_shiftLeftFlag (v : Byte) : (shiftLeftFlag v).toNat = v.toNat / 128 := by
  have := v.isLt
  rw [shiftLeftFlag, toNat_flagByte, BitVec.getLsbD, Nat.toNat_testBit]
  omega

/-! ### What an instruction that answers with one write leaves -/

section

variable {i : Instr} {s : State} {x : Reg} {b f : Byte} {a : Word}

theorem sets_reg_of_exec_eq (hexec : exec i s = .next ((s.setReg x b).withPc (s.pc + 2))) :
    ∃ t, exec i s = .next t ∧ t.reg x = b ∧ t.pc = s.pc + 2 ∧ ChangesOnly { regs := [x] } s t :=
  ⟨_, hexec, by simp, rfl, ((ChangesOnly.refl _ s).setReg (.head _) b).withPc _⟩

/-- The flag is the later write, so the result stands only in a register other than `VF` (R31, R35). -/
theorem sets_reg_and_flag_of_exec_eq (hexec : exec i s = .next ((s.setRegAndFlag x b f).withPc (s.pc + 2))) :
    ∃ t, exec i s = .next t ∧ (x ≠ vF → t.reg x = b) ∧ t.reg vF = f ∧ t.pc = s.pc + 2 ∧
      ChangesOnly { regs := [x, vF] } s t :=
  ⟨_, hexec, fun hx => by simp [hx], by simp, rfl,
    ((ChangesOnly.refl _ s).setRegAndFlag (.head _) (.tail _ (.head _)) b f).withPc _⟩

/-- Both subtractions at once: `m` minus `n`, whichever registers they come from (R207, R208). -/
theorem sets_difference_of_exec_eq {m n : Byte}
    (hexec : exec i s = .next ((s.setRegAndFlag x (subBytes m n) (notBorrowFlag m n)).withPc (s.pc + 2))) :
    ∃ t, exec i s = .next t ∧ (x ≠ vF → ((t.reg x).toNat : Int) = (m.toNat - n.toNat : Int) % 256) ∧
      t.reg vF = (if m.toNat ≥ n.toNat then 1 else 0) ∧ t.pc = s.pc + 2 ∧ ChangesOnly { regs := [x, vF] } s t := by
  obtain ⟨t, hnext, hdifference, hnotBorrow, hrest⟩ := sets_reg_and_flag_of_exec_eq hexec
  refine ⟨t, hnext, fun hx => ?_, ?_, hrest⟩
  · rw [hdifference hx, toNat_subBytes]
  · exact hnotBorrow.trans (flagByte_decide _)

theorem sets_index_of_exec_eq (hexec : exec i s = .next ((s.withIndex a).withPc (s.pc + 2))) :
    ∃ t, exec i s = .next t ∧ t.index = a ∧ t.pc = s.pc + 2 ∧ ChangesOnly { index := true } s t :=
  ⟨_, hexec, rfl, rfl, ((ChangesOnly.refl { index := true } s).withIndex nofun).withPc _⟩

end

/-! ### Both forms of a shift at once (R106, R209, R210) -/

section

variable (x : Reg) (y : Option Reg) (s : State)

theorem exec_shiftRight_completes : ∃ t, exec (.shiftRight x y) s = .next t ∧
    (x ≠ vF → (t.reg x).toNat = (s.shiftSource x y).toNat / 2) ∧
    (t.reg vF).toNat = (s.shiftSource x y).toNat % 2 ∧ t.pc = s.pc + 2 ∧ ChangesOnly { regs := [x, vF] } s t := by
  obtain ⟨t, hexec, hresult, hflag, hrest⟩ := sets_reg_and_flag_of_exec_eq (exec_shiftRight s x y)
  refine ⟨t, hexec, fun hx => ?_, ?_, hrest⟩
  · rw [hresult hx, toNat_shiftRightByte]
  · rw [hflag, toNat_shiftRightFlag]

theorem exec_shiftLeft_completes : ∃ t, exec (.shiftLeft x y) s = .next t ∧
    (x ≠ vF → (t.reg x).toNat = (s.shiftSource x y).toNat * 2 % 256) ∧
    (t.reg vF).toNat = (s.shiftSource x y).toNat / 128 ∧ t.pc = s.pc + 2 ∧ ChangesOnly { regs := [x, vF] } s t := by
  obtain ⟨t, hexec, hresult, hflag, hrest⟩ := sets_reg_and_flag_of_exec_eq (exec_shiftLeft s x y)
  refine ⟨t, hexec, fun hx => ?_, ?_, hrest⟩
  · rw [hresult hx, toNat_shiftLeftByte]
  · rw [hflag, toNat_shiftLeftFlag]

end

end Sys2Proof.Machine

namespace Sys2Proof

/-- Settles O42: the sum and the carry as numbers. -/
theorem addWithVariableSetsSumAndCarry : Obligations.AddWithVariableSetsSumAndCarry := by
  refine ⟨selects_addWithVariable, fun x y s => ?_⟩
  obtain ⟨t, hexec, hsum, hcarry, hrest⟩ :=
    Machine.sets_reg_and_flag_of_exec_eq (Machine.exec_addWithVariable s x y)
  refine ⟨t, hexec, fun hx => ?_, ?_, hrest⟩
  · rw [hsum hx, Machine.toNat_addBytes]
  · exact hcarry.trans (Machine.flagByte_decide _)

/-- Settles O43: `VX` minus `VY`. -/
theorem subWithVariableSetsDifferenceAndNotBorrow : Obligations.SubWithVariableSetsDifferenceAndNotBorrow :=
  ⟨selects_subWithVariable, fun x y s => Machine.sets_difference_of_exec_eq (Machine.exec_subWithVariable s x y)⟩

/-- Settles O44: `VY` minus `VX`. -/
theorem subWithVariableNotExchangesTheOperands : Obligations.SubWithVariableNotExchangesTheOperands :=
  ⟨selects_subWithVariableNot, fun x y s =>
    Machine.sets_difference_of_exec_eq (Machine.exec_subWithVariableNot s x y)⟩

/-- Settles O45: the decoder's row, and one fact about `ShiftRight` for its two forms. -/
theorem shiftRightShiftsTheQuirkSource : Obligations.ShiftRightShiftsTheQuirkSource :=
  ⟨selects_shiftRight, fun x s =>
    ⟨fun y => Machine.exec_shiftRight_completes x (some y) s, Machine.exec_shiftRight_completes x none s⟩⟩

/-- Settles O46: the decoder's row, and one fact about `ShiftLeft` for its two forms. -/
theorem shiftLeftShiftsTheQuirkSource : Obligations.ShiftLeftShiftsTheQuirkSource :=
  ⟨selects_shiftLeft, fun x s =>
    ⟨fun y => Machine.exec_shiftLeft_completes x (some y) s, Machine.exec_shiftLeft_completes x none s⟩⟩

/-- Settles O38: both moves answer with one register write. -/
theorem movesCopyTheirSource : Obligations.MovesCopyTheirSource := fun x y nn =>
  ⟨fun s => Machine.sets_reg_of_exec_eq (Machine.exec_setWithByte s x nn),
    fun s => Machine.sets_reg_of_exec_eq (Machine.exec_setWithVariable s x y)⟩

/-- Settles O39: the address is extended by zeros, and the sum is narrowed to 16 bits. -/
theorem indexLoadsAndAddsModulo65536 : Obligations.IndexLoadsAndAddsModulo65536 := by
  refine fun nnn x s => ⟨?_, ?_⟩
  · obtain ⟨t, hexec, hindex, hrest⟩ := Machine.sets_index_of_exec_eq (Machine.exec_setIndexWithAddress s nnn)
    exact ⟨t, hexec, by rw [hindex, Machine.toNat_zextAddr], hrest⟩
  · obtain ⟨t, hexec, hindex, hrest⟩ := Machine.sets_index_of_exec_eq (Machine.exec_addIndexWithVariable s x)
    exact ⟨t, hexec, by rw [hindex, Machine.toNat_addIndex], hrest⟩

/-- Settles O40: five times a byte is at most 1275, so narrowing it to 16 bits loses nothing. -/
theorem spriteAddressIsFiveTimesTheDigit : Obligations.SpriteAddressIsFiveTimesTheDigit := by
  refine ⟨selects_setIndexWithSpriteAddress, fun x s => ?_⟩
  obtain ⟨t, hexec, hindex, hrest⟩ := Machine.sets_index_of_exec_eq (Machine.exec_setIndexWithSpriteAddress s x)
  have hbyte := (s.reg x).isLt
  have hproduct : t.index.toNat = (s.reg x).toNat * 5 := by
    rw [hindex, BitVec.toNat_ofNat]
    omega
  exact ⟨t, hexec, hproduct, by omega, hrest⟩

/-- Settles O41: one register write, of the sum narrowed to 8 bits. -/
theorem addWithByteWrapsAndKeepsTheFlag : Obligations.AddWithByteWrapsAndKeepsTheFlag := by
  intro x nn s
  obtain ⟨t, hexec, hsum, hrest⟩ := Machine.sets_reg_of_exec_eq (Machine.exec_addWithByte s x nn)
  exact ⟨t, hexec, by rw [hsum, Machine.toNat_addBytes], hrest⟩

/-- Settles O47: one register write each, of the bitwise operation on the two registers. -/
theorem logicWorksBitByBitAndKeepsTheFlag : Obligations.LogicWorksBitByBitAndKeepsTheFlag := by
  refine fun x y s => ⟨?_, ?_, ?_⟩
  · obtain ⟨t, hexec, hor, hrest⟩ := Machine.sets_reg_of_exec_eq (Machine.exec_or s x y)
    exact ⟨t, hexec, fun j => by rw [hor, BitVec.getLsbD_or], hrest⟩
  · obtain ⟨t, hexec, hand, hrest⟩ := Machine.sets_reg_of_exec_eq (Machine.exec_and s x y)
    exact ⟨t, hexec, fun j => by rw [hand, BitVec.getLsbD_and], hrest⟩
  · obtain ⟨t, hexec, hxor, hrest⟩ := Machine.sets_reg_of_exec_eq (Machine.exec_xor s x y)
    exact ⟨t, hexec, fun j => by rw [hxor, BitVec.getLsbD_xor], hrest⟩

end Sys2Proof

/-! ## Display (R240 to R246) -/

namespace Sys2Proof.Machine

/-- The sprite's bytes are those at `I`, so the rows a draw reads cover the pixels the statements name (R241, R242). -/
theorem spriteCovers_readBytes (s : State) (x y : Reg) (n : Nibble) (cx cy : Nat) :
    SpriteCovers (s.mem.readBytes s.index.toNat n.toNat) (s.startColumn x) (s.startRow y) cx cy ↔
      s.SpriteOn x y n cx cy := by
  simp only [SpriteCovers, State.SpriteOn, State.startColumn, State.startRow, State.byteAt, Memory.length_readBytes,
    Memory.getElem_readBytes, exists_prop]
  exact ⟨fun ⟨hx, hy, hrow, hcolumn, hwidth, hheight, hbit⟩ => ⟨hx, hy, hcolumn, hwidth, hrow, hheight, hbit⟩,
    fun ⟨hx, hy, hcolumn, hwidth, hrow, hheight, hbit⟩ => ⟨hx, hy, hrow, hcolumn, hwidth, hheight, hbit⟩⟩

/-- Where a sprite falls depends on its start position, `I` and memory alone (R241). -/
theorem spriteOn_congr {s t : State} {x y : Reg} (n : Nibble) (hcolumn : t.startColumn x = s.startColumn x)
    (hrow : t.startRow y = s.startRow y) (hindex : t.index = s.index) (hmem : ∀ a, t.byteAt a = s.byteAt a)
    (cx cy : Nat) : t.SpriteOn x y n cx cy ↔ s.SpriteOn x y n cx cy := by
  unfold State.startColumn at hcolumn
  unfold State.startRow at hrow
  simp only [State.SpriteOn, hcolumn, hrow, hindex, hmem]

/-- Every row of the sprite can be read: the range check of a draw, the clipped rows among the checked (R243, D9). -/
def State.SpriteReadable (s : State) (n : Nibble) : Prop := n = 0 ∨ s.index.toNat + n.toNat ≤ 4096

/-- `Draw` completed from `s` in `t` (R241, R244). -/
structure Drawn (x y : Reg) (n : Nibble) (s t : State) : Prop where
  toggled  : ∀ cx cy, s.SpriteOn x y n cx cy → t.disp.pixel cx cy = !s.disp.pixel cx cy
  kept     : ∀ cx cy, ¬ s.SpriteOn x y n cx cy → t.disp.pixel cx cy = s.disp.pixel cx cy
  collided : (∃ cx cy, s.SpriteOn x y n cx cy ∧ s.disp.pixel cx cy = true) → t.reg vF = 1
  missed   : (∀ cx cy, s.SpriteOn x y n cx cy → s.disp.pixel cx cy = false) → t.reg vF = 0
  pc       : t.pc = s.pc + 2
  frame    : ChangesOnly { regs := [vF], disp := true } s t

section

variable {s t u : State} {x y : Reg} {n : Nibble}

/-- The two laws of the drawing loops, read off at the state a draw leaves. -/
theorem drawn_drawSprite :
    Drawn x y n s ((drawSprite x y (s.mem.readBytes s.index.toNat n.toNat) s).withPc (s.pc + 2)) := by
  have hpixel := drawRows_pixel (s.startColumn x) (s.mem.readBytes s.index.toNat n.toNat) (s.startRow y) s.disp false
  have hhit := drawRows_hit (s.startColumn x) (s.mem.readBytes s.index.toNat n.toNat) (s.startRow y) s.disp false
  simp only [spriteCovers_readBytes] at hpixel hhit
  refine
    { toggled := fun cx cy hon => ?_
      kept := fun cx cy hoff => ?_
      collided := fun hmeets => ?_
      missed := fun hall => ?_
      pc := rfl
      frame := (((ChangesOnly.refl _ s).withDisp rfl _).setReg (.head _) _).withPc _ }
  · exact Bool.eq_iff_iff.mpr ((hpixel cx cy).trans (by simp [hon]))
  · exact Bool.eq_iff_iff.mpr ((hpixel cx cy).trans (by simp [hoff]))
  · simp [drawSprite, flagByte, hhit.mpr (.inr hmeets)]
  · have hnoHit : ¬ (false = true ∨ ∃ cx cy, s.SpriteOn x y n cx cy ∧ s.disp.pixel cx cy = true) := by
      simpa using hall
    simp [drawSprite, flagByte, Bool.eq_false_iff.mpr (mt hhit.mp hnoHit)]

theorem exec_draw_of_readable (h : s.SpriteReadable n) : ∃ t, exec (.draw x y n) s = .next t ∧ Drawn x y n s t := by
  have hread := State.readOperand_ok (h.imp_left fun hn => congrArg BitVec.toNat hn)
  exact ⟨_, by rw [exec_draw, hread, orRaise_ok], drawn_drawSprite⟩

theorem raises_draw (hn : n ≠ 0) (hrange : 4096 < s.index.toNat + n.toNat) :
    Raises (.draw x y n) s (.memoryOutOfRange (max s.index.toNat 4096)) := by
  have hread := State.readOperand_error ⟨fun h => hn (BitVec.eq_of_toNat_eq h), hrange⟩
  rw [Raises, exec_draw, hread, orRaise_error]

theorem drawn_of_exec (hreadable : s.SpriteReadable n) (h : exec (.draw x y n) s = .next t) : Drawn x y n s t := by
  obtain ⟨t', hnext, hdrawn⟩ := exec_draw_of_readable (x := x) (y := y) hreadable
  cases hnext.symm.trans h
  exact hdrawn

/-- A draw that cannot read its sprite draws nothing (R243). -/
theorem disp_of_exec_unreadable (hunreadable : ¬ s.SpriteReadable n) (h : exec (.draw x y n) s = .next t) :
    t.disp = s.disp := by
  obtain ⟨hn, hrange⟩ := not_or.mp hunreadable
  cases (raises_draw hn (not_le.mp hrange)).symm.trans h
  rfl

/-- A second draw toggles each pixel the sprite falls on back (R246). -/
theorem Drawn.disp_of_twice (hfirst : Drawn x y n s t) (hsecond : Drawn x y n t u)
    (hsame : ∀ cx cy, t.SpriteOn x y n cx cy ↔ s.SpriteOn x y n cx cy) : u.disp = s.disp := by
  refine display_ext fun cx cy => ?_
  by_cases hon : s.SpriteOn x y n cx cy
  · rw [hsecond.toggled _ _ ((hsame cx cy).mpr hon), hfirst.toggled _ _ hon, Bool.not_not]
  · rw [hsecond.kept _ _ (mt (hsame cx cy).mp hon), hfirst.kept _ _ hon]

end

end Sys2Proof.Machine

namespace Sys2Proof

open Machine (ChangesOnly)

/-- Settles O49: the drawing loops' two laws, and the range check before them. -/
theorem drawTogglesExactlyTheSpritesPixels : Obligations.DrawTogglesExactlyTheSpritesPixels := by
  refine ⟨selects_draw, fun x y n s => ⟨fun hreadable => ?_, fun ⟨hn, hrange⟩ => Machine.raises_draw hn hrange⟩⟩
  obtain ⟨t, hnext, hdrawn⟩ := Machine.exec_draw_of_readable (x := x) (y := y) hreadable
  exact ⟨t, hnext, hdrawn.toggled, hdrawn.kept, hdrawn.collided, hdrawn.missed, hdrawn.pc, hdrawn.frame⟩

/-- Settles O50: the first draw keeps `I` and memory, so both draws fall on the same pixels, and the second meets there
the complement of what the first met. -/
theorem drawingTwiceRestoresTheDisplay : Obligations.DrawingTwiceRestoresTheDisplay := by
  intro x y n s t u hfirst hsecond hcolumn hrow
  have hframe := Machine.exec_changesOnly hfirst
  have hindex : t.index = s.index := hframe.index rfl
  have hsame := Machine.spriteOn_congr n hcolumn hrow hindex fun a => hframe.memory a (.inr a.zero_le)
  have hreadable_iff : t.SpriteReadable n ↔ s.SpriteReadable n := by
    rw [Machine.State.SpriteReadable, Machine.State.SpriteReadable, hindex]
  by_cases hreadable : s.SpriteReadable n
  · have hst := Machine.drawn_of_exec hreadable hfirst
    have htu := Machine.drawn_of_exec (hreadable_iff.mpr hreadable) hsecond
    refine ⟨hst.disp_of_twice htu hsame, fun _ => ⟨?_, fun hallOn => htu.missed fun cx cy hon => ?_⟩⟩
    · rintro ⟨cx, cy, hon, hoff⟩
      exact htu.collided ⟨cx, cy, (hsame cx cy).mpr hon, by rw [hst.toggled _ _ hon, hoff]; rfl⟩
    · have hon' := (hsame cx cy).mp hon
      rw [hst.toggled _ _ hon', hallOn _ _ hon']
      rfl
  · have hst := Machine.disp_of_exec_unreadable hreadable hfirst
    have htu := Machine.disp_of_exec_unreadable (mt hreadable_iff.mp hreadable) hsecond
    exact ⟨htu.trans hst, fun hread => absurd hread hreadable⟩

/-- Settles O48: the blank display has no pixel on. -/
theorem clearScreenTurnsEveryPixelOff : Obligations.ClearScreenTurnsEveryPixelOff :=
  ⟨selects_clearScreen, fun s => ⟨_, Machine.exec_clearScreen s, Machine.pixel_blank, rfl,
    ((ChangesOnly.refl _ s).withDisp rfl _).withPc _⟩⟩

end Sys2Proof

/-! ## Timers (R260 to R268) -/

namespace Sys2Proof.Machine

namespace Timer

variable {t : Timer} {w : TimerWrite} {v : Byte}

/-! ### What a load and a decrement leave (R261, R263) -/

theorem value_load_of_loadVx (h : w = .loadVx) : (t.load w v).value = v := by rw [h]; rfl

theorem value_load_of_reset60 (h : w = .reset60) : (t.load w v).value = 60 := by rw [h]; rfl

theorem decrement_of_one_lt (h : 1 < t.value.toNat) : t.decrement = { t with value := t.value - 1 } := if_pos h

theorem decrement_of_value_one (h : t.value = 1) : t.decrement = ⟨0, .zero⟩ := by simp [decrement, h]

theorem decrement_of_value_zero (h : t.value = 0) : t.decrement = t := by simp [decrement, h]

/-- The three cases of R261 as one number: truncated subtraction stops at 0 as `decrement()` does. -/
theorem toNat_value_decrement (t : Timer) : t.decrement.value.toNat = t.value.toNat - 1 := by
  obtain hmany | hone | hzero : 1 < t.value.toNat ∨ t.value = 1 ∨ t.value = 0 := by bv_omega
  · rw [decrement_of_one_lt hmany]
    bv_omega
  · rw [decrement_of_value_one hone, hone]
    rfl
  · rw [decrement_of_value_zero hzero, hzero]
    rfl

/-! ### A countdown (R268) -/

theorem toNat_value_iterate_decrement (t : Timer) (n : Nat) :
    (decrement^[n] t).value.toNat = t.value.toNat - n := by
  induction n with
  | zero => rfl
  | succ n ih => rw [Function.iterate_succ_apply', toNat_value_decrement, ih, Nat.sub_sub]

theorem agrees_iterate_decrement (h : t.Agrees) (n : Nat) : (decrement^[n] t).Agrees := by
  induction n with
  | zero => exact h
  | succ n ih => rw [Function.iterate_succ_apply']; exact agrees_decrement ih

/-- An agreeing timer is known by its value (R42). -/
theorem eq_atValue_of_agrees (h : t.Agrees) : t = atValue t.value := by
  obtain ⟨value, life⟩ := t
  cases life with
  | zero =>
    have hvalue : value = 0 := h.mp rfl
    rw [atValue, if_pos hvalue]
  | aboveZero =>
    have hvalue : value ≠ 0 := fun hzero => nomatch h.mpr hzero
    rw [atValue, if_neg hvalue]

/-- Where a countdown from `reset()` stands after `n` decrements (R264, R268). -/
theorem iterate_decrement_reset (t : Timer) (n : Nat) :
    decrement^[n] t.reset = atValue (BitVec.ofNat 8 (60 - n)) := by
  have hagrees : t.reset.Agrees := agrees_load t .reset60 0
  have hvalue : (decrement^[n] t.reset).value = BitVec.ofNat 8 (60 - n) := by
    refine BitVec.eq_of_toNat_eq ?_
    have hleft : (decrement^[n] t.reset).value.toNat = 60 - n := toNat_value_iterate_decrement t.reset n
    rw [hleft, BitVec.toNat_ofNat, Nat.mod_eq_of_lt (by omega)]
  rw [eq_atValue_of_agrees (agrees_iterate_decrement hagrees n), hvalue]

end Timer

end Sys2Proof.Machine

namespace Sys2Proof

open Machine (ChangesOnly Timer)

/-- Settles O54: a countdown takes its length off the value and keeps the agreement, so the timer after `n` decrements is
the one at the value left. -/
theorem countdownReachesZeroAndStays : Obligations.CountdownReachesZeroAndStays :=
  ⟨fun T n hagrees => ⟨T.toNat_value_iterate_decrement n, Timer.agrees_iterate_decrement hagrees n⟩,
    fun T => ⟨rfl, T.iterate_decrement_reset 59, T.iterate_decrement_reset 60, T.iterate_decrement_reset 61⟩⟩

/-- Settles O51: one register write, of the delay timer's value. -/
theorem delayTimerIsReadIntoARegister : Obligations.DelayTimerIsReadIntoARegister :=
  fun x s => Machine.sets_reg_of_exec_eq (Machine.exec_setVariableWithDelayTimer s x)

/-- Settles O52: one load each, of the timer the instruction names. -/
theorem timerWritesLoadByTimerWrite : Obligations.TimerWritesLoadByTimerWrite := by
  refine fun x s => ⟨⟨_, Machine.exec_setDelayTimer s x, ?_⟩, ⟨_, Machine.exec_setSoundTimer s x, ?_⟩⟩
  · exact ⟨Timer.value_load_of_loadVx, Timer.value_load_of_reset60, Timer.agrees_load _ _ _, rfl,
      ((ChangesOnly.refl _ s).withDt rfl _).withPc _⟩
  · exact ⟨Timer.value_load_of_loadVx, Timer.value_load_of_reset60, Timer.agrees_load _ _ _, rfl,
      ((ChangesOnly.refl _ s).withSt rfl _).withPc _⟩

/-- Settles O53: the three cases of a decrement, and a tick is one update of the named timer. -/
theorem tickDecrementsTheNamedTimerOnly : Obligations.TickDecrementsTheNamedTimerOnly := by
  refine ⟨fun T => ⟨fun hmany => ⟨T.toNat_value_decrement, ?_⟩, Timer.decrement_of_value_one,
    Timer.decrement_of_value_zero⟩, fun s => ?_⟩
  · rw [Timer.decrement_of_one_lt hmany]
  · have hdelay : ChangesOnly { dt := true } s (Machine.tickTimer .delay s) := (ChangesOnly.refl _ s).withDt rfl _
    have hsound : ChangesOnly { st := true } s (Machine.tickTimer .sound s) := (ChangesOnly.refl _ s).withSt rfl _
    exact ⟨rfl, rfl, rfl, hdelay, rfl, rfl, rfl, hsound⟩

end Sys2Proof

/-! ## Register-memory transfers (R280 to R283) -/

namespace Sys2Proof.Machine

/-- Byte `k` of a read is the byte `k` past its first address (R72). -/
theorem Memory.getD_readBytes (m : Memory) (addr : Nat) (b : Byte) {n k : Nat} (h : k < n) :
    (m.readBytes addr n).getD k b = m.read (addr + k) := by
  rw [List.getD_eq_getElem _ _ (by rwa [m.length_readBytes]), m.getElem_readBytes]

/-- The registers `LoadIntoRegisters` with `X` writes (R281). -/
theorem mem_registersUpTo {r x : Reg} : r ∈ (List.finRange 16).filter (· ≤ x) ↔ r ≤ x := by simp

section

variable {s : State} {x : Reg}

/-- In Legacy mode a transfer moves `I` past its last byte (R280, R281). -/
theorem State.toNat_indexAfterTransfer_legacy (x : Reg) (h : s.cfg.quirk = .legacy) :
    (s.indexAfterTransfer x).toNat = (s.index.toNat + x.val + 1) % 65536 := by
  simp only [State.indexAfterTransfer, h, toNat_addIndex, Nat.add_assoc]

theorem State.indexAfterTransfer_of_modern (x : Reg) (h : s.cfg.quirk = .modern) :
    s.indexAfterTransfer x = s.index :=
  s.indexAfterTransfer_modern x (by rw [h]; nofun)

/-- READ AFTER STORE at `I`: byte `I + k` is byte `k` of what was stored (R72, R283). -/
theorem State.read_of_storeOperand {bytes : List Byte} {m : Memory} (hwf : s.mem.wf = true)
    (hm : s.storeOperand bytes = .ok m) {k : Nat} (hk : k < bytes.length) :
    m.read (s.index.toNat + k) = bytes[k] := by
  obtain ⟨hwritten, hrange⟩ := State.memWrite_inv hm
  have hfits : s.operandAddress 0 + bytes.length ≤ memSize := hrange.resolve_left (by omega)
  have haddress : s.operandAddress 0 = s.index.toNat := rfl
  rw [hwritten, Memory.read_writeBytes hwf _ _ hfits, haddress, if_pos ⟨by omega, by omega⟩, Nat.add_sub_cancel_left,
    List.getD_eq_getElem]

theorem exec_storeRegisters_ok {m : Memory} (hm : s.storeOperand (s.firstRegisters x) = .ok m) :
    exec (.storeRegisters x) s = .next (((s.withMem m).withIndex (s.indexAfterTransfer x)).withPc (s.pc + 2)) := by
  rw [exec_storeRegisters, hm, orRaise_ok]

theorem exec_loadIntoRegisters_ok {bytes : List Byte} (hb : s.readOperand (x.val + 1) = .ok bytes) :
    exec (.loadIntoRegisters x) s =
      .next (((s.withV (loadedRegisters s.v bytes)).withIndex (s.indexAfterTransfer x)).withPc (s.pc + 2)) := by
  rw [exec_loadIntoRegisters, hb, orRaise_ok]

theorem exec_storeDecimalConversion_ok {m : Memory} (hm : s.storeOperand (decimalDigits (s.reg x)) = .ok m) :
    exec (.storeDecimalConversion x) s = .next ((s.withMem m).withPc (s.pc + 2)) := by
  rw [exec_storeDecimalConversion, hm, orRaise_ok]

theorem raises_storeRegisters (h : 4096 ≤ s.index.toNat + x.val) :
    Raises (.storeRegisters x) s (.memoryOutOfRange (max s.index.toNat 4096)) := by
  have hstore := State.storeOperand_error (s := s) (bytes := s.firstRegisters x)
    (by rw [s.firstRegisters_length]; omega)
  rw [Raises, exec_storeRegisters, hstore, orRaise_error]

theorem raises_loadIntoRegisters (h : 4096 ≤ s.index.toNat + x.val) :
    Raises (.loadIntoRegisters x) s (.memoryOutOfRange (max s.index.toNat 4096)) := by
  rw [Raises, exec_loadIntoRegisters, State.readOperand_error (by omega), orRaise_error]

theorem raises_storeDecimalConversion (h : 4096 ≤ s.index.toNat + 2) :
    Raises (.storeDecimalConversion x) s (.memoryOutOfRange (max s.index.toNat 4096)) := by
  have hstore := State.storeOperand_error (s := s) (bytes := decimalDigits (s.reg x))
    ⟨nofun, show 4096 < s.index.toNat + 3 by omega⟩
  rw [Raises, exec_storeDecimalConversion, hstore, orRaise_error]

end

end Sys2Proof.Machine

namespace Sys2Proof

open Machine (ChangesOnly State Memory)

/-- Settles O55: a store of `V0` to `V[X]` at `I`, read back byte by byte, and its range check. -/
theorem storeRegistersWritesUpToVx : Obligations.StoreRegistersWritesUpToVx := by
  refine ⟨selects_storeRegisters, fun x s hwf => ⟨fun hfits => ?_, Machine.raises_storeRegisters⟩⟩
  have hlength := s.firstRegisters_length x
  have hm := State.storeOperand_ok (s := s) (bytes := s.firstRegisters x) (by omega)
  refine ⟨_, Machine.exec_storeRegisters_ok hm, fun k hk => ?_, State.toNat_indexAfterTransfer_legacy x,
    State.indexAfterTransfer_of_modern x, rfl, .withPc (.withIndex (.store hm rfl hlength.symm) (Bool.noConfusion ·)) _⟩
  have hbyte := State.read_of_storeOperand hwf hm (k := k.val) (hlength ▸ Nat.lt_succ_of_le hk)
  exact hbyte.trans (s.firstRegisters_getElem x k _)

/-- Settles O56: a read of `X + 1` bytes at `I` into `V0` to `V[X]`, and its range check. -/
theorem loadIntoRegistersReadsUpToVx : Obligations.LoadIntoRegistersReadsUpToVx := by
  refine ⟨selects_loadIntoRegisters, fun x s => ⟨fun hfits => ?_, Machine.raises_loadIntoRegisters⟩⟩
  have hread := State.readOperand_ok (s := s) (n := x.val + 1) (.inr hfits)
  refine ⟨_, Machine.exec_loadIntoRegisters_ok hread, fun k hk => ?_, State.toNat_indexAfterTransfer_legacy x,
    State.indexAfterTransfer_of_modern x, rfl, .withPc (.withIndex (.loaded fun r hr => ?_) (Bool.noConfusion ·)) _⟩
  · rw [State.withPc_reg, State.withIndex_reg, State.reg_loaded]
    exact Memory.getD_readBytes _ _ _ (Nat.lt_succ_of_le hk)
  · rw [Memory.length_readBytes] at hr
    exact Machine.mem_registersUpTo.mpr (Nat.le_of_lt_succ hr)

/-- Settles O57: a store of the three digits at `I`, read back byte by byte, and its range check; a byte's digits are
below 256, so narrowing them loses nothing. -/
theorem decimalConversionStoresThreeDigits : Obligations.DecimalConversionStoresThreeDigits := by
  refine ⟨selects_storeDecimalConversion, fun x s hwf => ⟨fun hfits => ?_, Machine.raises_storeDecimalConversion⟩⟩
  have hm := State.storeOperand_ok (s := s) (bytes := Machine.decimalDigits (s.reg x)) hfits
  have hbyte (k : Nat) (hk : k < 3) := State.read_of_storeOperand hwf hm hk
  have hnarrow (n : Nat) (hn : n ≤ (s.reg x).toNat) : (BitVec.ofNat 8 n).toNat = n :=
    (BitVec.toNat_ofNat n 8).trans (Nat.mod_eq_of_lt (hn.trans_lt (s.reg x).isLt))
  refine ⟨_, Machine.exec_storeDecimalConversion_ok hm, ?_, ?_, ?_, rfl, .withPc (.store hm rfl rfl) _⟩
  · exact (congrArg BitVec.toNat (hbyte 0 (by omega))).trans (hnarrow _ (by omega))
  · exact (congrArg BitVec.toNat (hbyte 1 (by omega))).trans (hnarrow _ (by omega))
  · exact (congrArg BitVec.toNat (hbyte 2 (by omega))).trans (hnarrow _ (by omega))

/-- Settles O58: the load reads the bytes the store wrote, since memory and `I` are those of the store. -/
theorem storeThenLoadGivesTheRegistersBack : Obligations.StoreThenLoadGivesTheRegistersBack := by
  intro x s t u hwf hfits hstore hmem hindex
  obtain ⟨hstoreCompletes, -⟩ := storeRegistersWritesUpToVx.2 x s hwf
  obtain ⟨hloadCompletes, -⟩ := loadIntoRegistersReadsUpToVx.2 x u
  obtain ⟨t', hstore', hstored, -⟩ := hstoreCompletes hfits
  cases hstore.symm.trans hstore'
  obtain ⟨w, hload, hloaded, -, -, -, hframe⟩ := hloadCompletes (by rwa [hindex])
  have hbytes (a : Nat) : u.byteAt a = t.byteAt a := by rw [State.byteAt, hmem, State.byteAt]
  refine ⟨w, hload, fun k hk => ?_, fun k hk => hframe.regs k (mt Machine.mem_registersUpTo.mp (not_le.mpr hk))⟩
  calc w.reg k = u.byteAt (u.index.toNat + k.val) := hloaded k hk
    _ = t.byteAt (s.index.toNat + k.val) := by rw [hbytes, hindex]
    _ = s.reg k := hstored k hk

end Sys2Proof

/-! ## Key input and the wait sub-state (R300 to R308) -/

namespace Sys2Proof.Machine

/-! ### The transitions of a key slot (R301, R302, R303) -/

theorem KeySlot.press_eq (slot : KeySlot) : slot.press = if slot = .notPressed then .pressed else slot := by
  cases slot <;> rfl

theorem KeySlot.hold_eq (slot : KeySlot) : slot.hold = if slot = .pressed then .alreadyPressed else slot := by
  cases slot <;> rfl

theorem eventAfterRelease_eq (k : Key) (slot : KeySlot) (earlier : Option Key) :
    eventAfterRelease k slot earlier = if slot = .pressed then some k else earlier := by
  cases slot <;> rfl

section

variable (k j : Key) (s : State)

theorem key_pressKey : (pressKey k s).key j = if j = k then (s.key k).press else s.key j :=
  State.key_withKeys_set s s k j _

theorem key_releaseKey : (releaseKey k s).key j = if j = k then .notPressed else s.key j :=
  State.key_withKeys_set s s k j _

theorem relEvent_releaseKey :
    (releaseKey k s).relEvent = if s.key k = .pressed then some k else s.relEvent :=
  eventAfterRelease_eq k (s.key k) s.relEvent

theorem key_withKeys_heldKeys : (s.withKeys (heldKeys s.keys)).key k = (s.key k).hold := by
  simp [State.key, heldKeys]

/-- A press report of a key held since before the wait changes no slot (R302). -/
theorem key_pressKey_of_alreadyPressed (h : s.key k = .alreadyPressed) : (pressKey k s).key j = s.key j := by
  rw [key_pressKey]
  split
  · next hj => rw [hj, h]; rfl
  · rfl

end

/-! ### A wait step (R304, R305) -/

section

variable {s : State} {x : Reg} {k : Key}

theorem stepResult_of_waiting (hfault : s.fault = none) (hwait : s.waitReg = some x) :
    stepResult s = waitResult s := by
  simp only [stepResult, activity, hfault, hwait]

theorem waitResult_of_no_event (h : s.relEvent = none) : waitResult s = .blocked := by
  simp only [waitResult, h]

theorem waitResult_of_event (h : s.relEvent = some k) : waitResult s = .keyReceived k := by
  simp only [waitResult, h]

theorem waitStep_of_event (h : s.relEvent = some k) :
    waitStep x s = ((s.setReg x (keyByte k)).withWaitReg none).withRelEvent none := by
  simp only [waitStep, h]

theorem toNat_keyByte (k : Key) : (keyByte k).toNat = k.val := by
  rw [keyByte, BitVec.toNat_ofNat, Nat.mod_eq_of_lt (by omega)]

theorem stepBlock_of_blocked (hfault : s.fault = none) (hwait : s.waitReg = some x) (hevent : s.relEvent = none) :
    stepBlock s = .next s := by
  rw [stepBlock_of_waiting hfault hwait, waitStep_of_no_event hevent]

end

/-! ### A wait that only held keys are reported in (R307) -/

/-- From `s` to `t` the block's wait, its fault record, `PC`, the registers, memory and the display are unchanged. -/
structure WaitUnchanged (s t : State) : Prop where
  waitReg  : t.waitReg = s.waitReg
  relEvent : t.relEvent = s.relEvent
  fault    : t.fault = s.fault
  pc       : t.pc = s.pc
  v        : t.v = s.v
  mem      : t.mem = s.mem
  disp     : t.disp = s.disp

theorem WaitUnchanged.refl (s : State) : WaitUnchanged s s := ⟨rfl, rfl, rfl, rfl, rfl, rfl, rfl⟩

theorem WaitUnchanged.trans {s t u : State} (hst : WaitUnchanged s t) (htu : WaitUnchanged t u) :
    WaitUnchanged s u where
  waitReg := htu.waitReg.trans hst.waitReg
  relEvent := htu.relEvent.trans hst.relEvent
  fault := htu.fault.trans hst.fault
  pc := htu.pc.trans hst.pc
  v := htu.v.trans hst.v
  mem := htu.mem.trans hst.mem
  disp := htu.disp.trans hst.disp

/-- No slot is `Pressed`, and of the operations the only presses are of keys that are `AlreadyPressed` and that none of
the operations releases. -/
structure ReportsOnlyHeldKeys (ops : List DriverOp) (s : State) : Prop where
  not_pressed : ∀ j, s.key j ≠ .pressed
  held        : ∀ j, .setKeyState j true ∈ ops → s.key j = .alreadyPressed ∧ .setKeyState j false ∉ ops

/-- The condition passes to the rest of the operations when the first one has changed no slot but that of a key it
releases: a later press is of another key. -/
theorem ReportsOnlyHeldKeys.tail {op : DriverOp} {ops : List DriverOp} {s t : State}
    (h : ReportsOnlyHeldKeys (op :: ops) s)
    (hkeys : ∀ j, t.key j = s.key j ∨ t.key j = .notPressed ∧ op = .setKeyState j false) :
    ReportsOnlyHeldKeys ops t where
  not_pressed j := by
    rcases hkeys j with hsame | ⟨hreleased, -⟩
    · rw [hsame]; exact h.not_pressed j
    · rw [hreleased]; nofun
  held j hpress := by
    obtain ⟨hheld, hnot⟩ := h.held j (.tail _ hpress)
    rcases hkeys j with hsame | ⟨-, rfl⟩
    · exact ⟨hsame.trans hheld, fun hrelease => hnot (.tail _ hrelease)⟩
    · exact absurd (.head _) hnot

section

variable {s : State} {x : Reg} {op : DriverOp} {ops : List DriverOp}

/-- One operation: a step is blocked, a press repeats a held key's, a release of a key not `Pressed` makes no event. -/
theorem perform_of_reportsOnlyHeldKeys (hfault : s.fault = none) (hwait : s.waitReg = some x)
    (hevent : s.relEvent = none) (h : ReportsOnlyHeldKeys (op :: ops) s) :
    ∃ t, perform op s = .next t ∧ WaitUnchanged s t ∧ t.driver = s.driver ∧
      ∀ j, t.key j = s.key j ∨ t.key j = .notPressed ∧ op = .setKeyState j false := by
  cases op with
  | step r =>
    have hblocked : perform (.step r) s = .next (s.withRnd r) :=
      stepBlock_of_blocked (s := s.withRnd r) hfault hwait hevent
    exact ⟨_, hblocked, { WaitUnchanged.refl s with }, rfl, fun _ => .inl rfl⟩
  | tickTimer which =>
    cases which with
    | delay => exact ⟨_, rfl, { WaitUnchanged.refl s with }, rfl, fun _ => .inl rfl⟩
    | sound => exact ⟨_, rfl, { WaitUnchanged.refl s with }, rfl, fun _ => .inl rfl⟩
  | setKeyState k pressed =>
    cases pressed with
    | true =>
      obtain ⟨hheld, -⟩ := h.held k (.head _)
      exact ⟨_, rfl, { WaitUnchanged.refl s with }, rfl, fun j => .inl (key_pressKey_of_alreadyPressed k j s hheld)⟩
    | false =>
      have hnone : (releaseKey k s).relEvent = s.relEvent := by
        rw [relEvent_releaseKey, if_neg (h.not_pressed k)]
      refine ⟨_, rfl, { WaitUnchanged.refl s with relEvent := hnone }, rfl, fun j => ?_⟩
      by_cases hj : j = k
      · exact .inr ⟨(key_releaseKey k j s).trans (if_pos hj), by rw [hj]⟩
      · exact .inl ((key_releaseKey k j s).trans (if_neg hj))
  | display | timers | fault => exact ⟨_, rfl, .refl s, rfl, fun _ => .inl rfl⟩

/-- A run goes on from the state its first step answers. -/
theorem run_succ_of_step {t : State} (k : Nat) (h : step s = .next t) :
    Sys2Proof.core.run (k + 1) s = Sys2Proof.core.run k t := by
  have hcore : Sys2Proof.core.step s = .next t := h
  simp only [Host.Core.run, hcore]

/-- The whole schedule, operation by operation. -/
theorem run_of_reportsOnlyHeldKeys (hdriver : s.driver = ops) (hfault : s.fault = none) (hwait : s.waitReg = some x)
    (hevent : s.relEvent = none) (h : ReportsOnlyHeldKeys ops s) :
    ∃ t : State, Sys2Proof.core.run ops.length s = .next t ∧ WaitUnchanged s t ∧ t.driver = [] := by
  induction ops generalizing s with
  | nil => exact ⟨s, rfl, .refl s, hdriver⟩
  | cons op rest ih =>
    obtain ⟨t, hperform, hsame, htdriver, hkeys⟩ :=
      perform_of_reportsOnlyHeldKeys (s := s.withDriver rest) hfault hwait hevent ⟨h.not_pressed, h.held⟩
    have hst : WaitUnchanged s t := { hsame with }
    obtain ⟨u, hrun, htu, hdone⟩ := ih htdriver (hst.fault.trans hfault) (hst.waitReg.trans hwait)
      (hst.relEvent.trans hevent) (h.tail hkeys)
    have hstep : step s = .next t := (step_of_scheduled hdriver).trans hperform
    exact ⟨u, (run_succ_of_step rest.length hstep).trans hrun, hst.trans htu, hdone⟩

end

end Sys2Proof.Machine

namespace Sys2Proof

open Machine (ChangesOnly State)

/-- Settles O15: both reports by the slot's transition, one slot written. -/
theorem keyReportsFollowTheTable : Obligations.KeyReportsFollowTheTable := by
  refine fun k s => ⟨rfl, rfl, ?_, ?_, Machine.relEvent_releaseKey k s, fun j hj => ⟨?_, ?_⟩, rfl, rfl,
    (ChangesOnly.refl _ s).withKeys rfl _, ((ChangesOnly.refl _ s).withKeys rfl _).withRelEvent rfl _⟩
  · exact (Machine.key_pressKey k k s).trans ((if_pos rfl).trans (s.key k).press_eq)
  · exact (Machine.key_releaseKey k k s).trans (if_pos rfl)
  · exact (Machine.key_pressKey k j s).trans (if_neg hj)
  · exact (Machine.key_releaseKey k j s).trans (if_neg hj)

/-- Settles O16: the instruction's one answer, and what holding makes of a slot. -/
theorem waitForKeyEntersTheWait : Obligations.WaitForKeyEntersTheWait := by
  refine fun x s => ⟨_, Machine.exec_waitForKey s x, rfl, rfl, rfl, fun k => ?_,
    ((((ChangesOnly.refl _ s).withKeys rfl _).withRelEvent rfl _).withWaitReg rfl _).withPc _⟩
  rw [State.withPc_key, State.withWaitReg_key, State.withRelEvent_key, Machine.key_withKeys_heldKeys,
    Machine.KeySlot.hold_eq]

/-- Settles O17, by induction on the schedule: no operation of it changes the wait, and each leaves the rest of the
schedule reporting only held keys. -/
theorem heldKeyCannotEndTheWait : Obligations.HeldKeyCannotEndTheWait := by
  intro s x hfault hwait hevent hnotPressed hheld
  obtain ⟨t, hrun, hsame, hdone⟩ :=
    Machine.run_of_reportsOnlyHeldKeys rfl hfault hwait hevent ⟨hnotPressed, hheld⟩
  exact ⟨t, hrun, hsame.waitReg.trans hwait, hsame.relEvent.trans hevent, hsame.fault.trans hfault, hsame.pc, hsame.v,
    hsame.mem, hsame.disp, hdone⟩

/-- Settles O13: the wait step with no event is the identity. -/
theorem blockedStepChangesNothing : Obligations.BlockedStepChangesNothing :=
  fun _ _ hfault hwait hevent => ⟨Machine.stepBlock_of_blocked hfault hwait hevent,
    (Machine.stepResult_of_waiting hfault hwait).trans (Machine.waitResult_of_no_event hevent)⟩

/-- Settles O14: the wait step with an event is one register write and the end of the wait. -/
theorem releaseEventEndsTheWait : Obligations.ReleaseEventEndsTheWait := by
  intro s x k hfault hwait hevent
  have hstep := Machine.stepBlock_of_waiting hfault hwait
  rw [Machine.waitStep_of_event hevent] at hstep
  have hbyte : ((((s.setReg x (Machine.keyByte k)).withWaitReg none).withRelEvent none).reg x).toNat = k.val := by
    rw [State.withRelEvent_reg, State.withWaitReg_reg, State.reg_setReg, if_pos rfl, Machine.toNat_keyByte]
  exact ⟨_, hstep, hbyte, rfl, rfl, rfl,
    (((ChangesOnly.refl _ s).setReg (.head _) _).withWaitReg rfl _).withRelEvent rfl _,
    (Machine.stepResult_of_waiting hfault hwait).trans (Machine.waitResult_of_event hevent)⟩

end Sys2Proof

/-! ## The random byte, the machine routine, a recorded fault, and construction (R330, R331, R347, R380) -/

namespace Sys2Proof.Machine

section

variable {s : State} {f : Fault}

/-! ### A recorded fault (R47, R161, R347) -/

/-- From `s` to `t` the fault record, the registers, `PC`, the stack, memory, the display and the wait are unchanged: what
is left to the driver's operations is the timers, the keys and the release event. -/
structure FaultedUnchanged (s t : State) : Prop where
  fault   : t.fault = s.fault
  v       : t.v = s.v
  index   : t.index = s.index
  pc      : t.pc = s.pc
  stack   : t.stack = s.stack
  mem     : t.mem = s.mem
  disp    : t.disp = s.disp
  waitReg : t.waitReg = s.waitReg

theorem FaultedUnchanged.refl (s : State) : FaultedUnchanged s s := ⟨rfl, rfl, rfl, rfl, rfl, rfl, rfl, rfl⟩

theorem FaultedUnchanged.trans {s t u : State} (hst : FaultedUnchanged s t) (htu : FaultedUnchanged t u) :
    FaultedUnchanged s u where
  fault := htu.fault.trans hst.fault
  v := htu.v.trans hst.v
  index := htu.index.trans hst.index
  pc := htu.pc.trans hst.pc
  stack := htu.stack.trans hst.stack
  mem := htu.mem.trans hst.mem
  disp := htu.disp.trans hst.disp
  waitReg := htu.waitReg.trans hst.waitReg

theorem stepBlock_of_faulted (hfault : s.fault = some f) : stepBlock s = .next s := by
  simp only [stepBlock, activity, hfault]

theorem stepResult_of_faulted (hfault : s.fault = some f) : stepResult s = .faulted f := by
  simp only [stepResult, activity, hfault]

/-- A step is stopped by the record; the other operations touch the timers, the keys and the release event at most
(R161). -/
theorem perform_of_faulted (hfault : s.fault = some f) (op : DriverOp) :
    ∃ t, perform op s = .next t ∧ FaultedUnchanged s t := by
  cases op with
  | step r => exact ⟨s.withRnd r, stepBlock_of_faulted (s := s.withRnd r) hfault, { FaultedUnchanged.refl s with }⟩
  | tickTimer which => cases which <;> exact ⟨_, rfl, { FaultedUnchanged.refl s with }⟩
  | setKeyState k pressed => cases pressed <;> exact ⟨_, rfl, { FaultedUnchanged.refl s with }⟩
  | display | timers | fault => exact ⟨s, rfl, .refl s⟩

/-- The same of the machine's next operation, whatever is scheduled. -/
theorem step_of_faulted (hfault : s.fault = some f) : ∃ t, step s = .next t ∧ FaultedUnchanged s t := by
  cases hdriver : s.driver with
  | nil =>
    exact ⟨s.drawRandom, (step_of_unscheduled hdriver).trans (stepBlock_of_faulted (s := s.drawRandom) hfault),
      { FaultedUnchanged.refl s with }⟩
  | cons op rest =>
    obtain ⟨t, hperform, hsame⟩ := perform_of_faulted (s := s.withDriver rest) hfault op
    exact ⟨t, (step_of_scheduled hdriver).trans hperform, { hsame with }⟩

theorem run_of_faulted (hfault : s.fault = some f) (k : Nat) :
    ∃ t : State, Sys2Proof.core.run k s = .next t ∧ FaultedUnchanged s t := by
  induction k generalizing s with
  | zero => exact ⟨s, rfl, .refl s⟩
  | succ k ih =>
    obtain ⟨t, hstep, hst⟩ := step_of_faulted hfault
    obtain ⟨u, hrun, htu⟩ := ih (hst.fault.trans hfault)
    exact ⟨u, (run_succ_of_step k hstep).trans hrun, hst.trans htu⟩

end

/-! ### Construction (R9, R59, R380) -/

section

variable (p : List Byte) (c : Config)

/-- The machine `new` builds from a program that fits (`new_ok`). -/
def State.constructed : State :=
  { State.reset with
    mem := newMemory p c
    dt := Timer.atValue c.timerInit
    st := Timer.atValue c.timerInit
    cfg := c }

variable {p c}

theorem State.new_ok (hp : p.length ≤ 3584) : State.new p c = .ok (State.constructed p c) :=
  if_neg (Nat.not_lt.mpr hp)

theorem State.new_error (hp : 3584 < p.length) : State.new p c = .error (.programTooLarge p.length) := if_pos hp

/-- The one way `new` succeeds: the program fits. -/
theorem State.new_inv {s : State} (h : State.new p c = .ok s) : p.length ≤ 3584 ∧ s = State.constructed p c := by
  by_cases hp : p.length ≤ 3584
  · rw [State.new_ok hp] at h
    cases h
    exact ⟨hp, rfl⟩
  · rw [State.new_error (Nat.not_le.mp hp)] at h
    cases h

/-! ### The memory of a new machine -/

/-- Memory with the font and no program (R50, R59). -/
def fontMemory (c : Config) : Memory := Memory.writeBytes [] 0 c.font.toList

theorem newMemory_eq (p : List Byte) (c : Config) : newMemory p c = (fontMemory c).writeBytes 0x200 p := rfl

theorem fontMemory_wf (c : Config) : (fontMemory c).wf = true :=
  Memory.wf_writeBytes rfl 0 _ (by simp [memSize])

theorem read_fontMemory_of_lt {a : Nat} (ha : a < 80) : (fontMemory c).read a = c.font[a] := by
  have hlength : a < c.font.toList.length := by simpa using ha
  rw [fontMemory, Memory.read_writeBytes rfl _ _ (by simp [memSize]), if_pos (by omega), Nat.sub_zero,
    List.getD_eq_getElem _ _ hlength, Vector.getElem_toList]

theorem read_fontMemory_of_le {a : Nat} (ha : 80 ≤ a) : (fontMemory c).read a = 0 := by
  rw [fontMemory, Memory.read_writeBytes_ne _ _ _ (.inr (by simpa using ha)), Memory.read_nil, unlistedByte_of_le ha]

/-- The longest program ends with the address space (R9). -/
theorem program_fits (hp : p.length ≤ 3584) : 0x200 + p.length ≤ memSize := by
  unfold memSize; omega

theorem newMemory_wf (hp : p.length ≤ 3584) : (newMemory p c).wf = true :=
  Memory.wf_writeBytes (fontMemory_wf c) _ p (program_fits hp)

theorem read_newMemory_program (hp : p.length ≤ 3584) {i : Nat} (hi : i < p.length) :
    (newMemory p c).read (0x200 + i) = p[i] := by
  rw [newMemory_eq, Memory.read_writeBytes (fontMemory_wf c) _ _ (program_fits hp), if_pos (by omega),
    Nat.add_sub_cancel_left, List.getD_eq_getElem _ _ hi]

/-- Loading the program writes no other byte. -/
theorem read_newMemory_of_outside {a : Nat} (ha : a < 0x200 ∨ 0x200 + p.length ≤ a) :
    (newMemory p c).read a = (fontMemory c).read a :=
  Memory.read_writeBytes_ne _ _ _ ha

/-- A new machine starts in the invariant: its memory is written inside the address space, its timers are at a value, and
what it takes from `State.reset` meets the rest. -/
theorem constructed_inv (hp : p.length ≤ 3584) (hc : c.wellFormed = true) : (State.constructed p c).Inv where
  memory := newMemory_wf hp
  delayAgrees := Timer.agrees_atValue _
  soundAgrees := Timer.agrees_atValue _
  pcBound := reset_inv.pcBound
  returnBound := reset_inv.returnBound
  stackFits := by
    unfold State.StackFits
    split
    · trivial
    · exact Nat.zero_le _
  config := hc

end

end Sys2Proof.Machine

namespace Sys2Proof

open Machine (ChangesOnly State)

/-- Settles O11: one operation leaves the record and what a program sees as they are, and so do `k` of them by induction
on `k`. -/
theorem recordedFaultIsPermanent : Obligations.RecordedFaultIsPermanent := by
  refine fun s f hfault =>
    ⟨Machine.stepBlock_of_faulted hfault, Machine.stepResult_of_faulted hfault, fun k => ?_⟩
  obtain ⟨t, hrun, hsame⟩ := Machine.run_of_faulted hfault k
  exact ⟨t, hrun, hsame.fault.trans hfault, hsame.v, hsame.index, hsame.pc, hsame.stack, hsame.mem, hsame.disp,
    hsame.waitReg⟩

/-- Settles O19: the program and the font are written to disjoint ranges of the address space, and the rest of the machine
is that of reset or of the configuration. -/
theorem newBuildsTheMachineOrRefusesTheProgram : Obligations.NewBuildsTheMachineOrRefusesTheProgram := by
  refine fun p c => ⟨fun hp => ⟨_, State.new_ok hp, rfl, rfl, Machine.reset_reg, rfl, rfl, fun a ha => ?_,
    fun i hi => Machine.read_newMemory_program hp hi, fun a ha hout => ?_, Machine.pixel_blank, rfl,
    Machine.Timer.agrees_atValue _, rfl, Machine.Timer.agrees_atValue _, Machine.reset_key, rfl, rfl, rfl⟩,
    State.new_error⟩
  · exact (Machine.read_newMemory_of_outside (.inl (by omega))).trans (Machine.read_fontMemory_of_lt ha)
  · exact (Machine.read_newMemory_of_outside hout).trans (Machine.read_fontMemory_of_le ha)

/-- Settles O21: the program fits, so the machine is the constructed one; no fault is recorded in it, as in reset. -/
theorem constructionMeetsTheInvariant : Obligations.ConstructionMeetsTheInvariant := by
  intro p c s hc hnew
  obtain ⟨hp, rfl⟩ := State.new_inv hnew
  exact ⟨Machine.constructed_inv hp hc, rfl⟩

/-- Settles O59: the decoder's row, and one register write, of the masked random byte. -/
theorem randomAndMasksTheRandomByte : Obligations.RandomAndMasksTheRandomByte := by
  refine ⟨selects_randomAnd, fun x nn s => ?_⟩
  obtain ⟨t, hexec, hand, hrest⟩ := Machine.sets_reg_of_exec_eq (Machine.exec_randomAnd s x nn)
  exact ⟨t, hexec, fun j => by rw [hand, BitVec.getLsbD_and], hrest⟩

/-- Settles O60: only `PC` is written. -/
theorem machineRoutineOnlyAdvances : Obligations.MachineRoutineOnlyAdvances :=
  fun nnn s => ⟨_, Machine.exec_machineRoutine s nnn, rfl, (ChangesOnly.refl {} s).withPc _⟩

end Sys2Proof
